-- ==== Sys2Proof/Word.lean ====
section
/-! DEFINITION. Word types of the block: the widths of 00_scope.md rule R5 (`WIDTH`, `DATA_W`, `CMD_W`, `RSP_W`).
Every value is an unsigned bit vector, bit 0 the least significant (rule R6). -/

namespace Sys2Proof

/-- A 32-bit value: a seed, a checksum, a shift-register value, an operand field (`WIDTH = 32`). -/
abbrev Word := BitVec 32

/-- The unit of the stream (`DATA_W = 8`). -/
abbrev Byte := BitVec 8

/-- A command word `CW[35:0]` (`CMD_W = 36`, rule R30). -/
abbrev CommandWord := BitVec 36

/-- A response word `RW[35:0]` (`RSP_W = 36`, rule R31). -/
abbrev ResponseWord := BitVec 36

/-- The 4-bit opcode field of a command word (rule R30). -/
abbrev Opcode := BitVec 4

end Sys2Proof
end

