-- ==== Sys2Proof/Syntax.lean ====
section
/-! DEFINITION. The commands of CRC32SC-CMD version 1: one constructor per row of spec/opcode_table.json.
The five commands (30_encoding.md rule R32), the three classes of illegal words that have a row (rule R34 a), and the two
pseudo-instructions (rule R37), which are the assembler's names and have no encoding of their own: the decoder never
answers them. The illegal words that have NO row (rule R34 b, c) are no `Instr`: the decoder rejects them by name. -/

namespace Sys2Proof

/-- One row of the opcode table each. -/
inductive Instr where
  /-- `SEED s` (rule R60): the operand is `arg[31:0]`, every value legal. -/
  | seed (s : Word)
  /-- `UPD b` (rule R65): the operand is `arg[7:0]`. -/
  | upd (b : Byte)
  /-- `READ` (rule R70). -/
  | read
  /-- `STAT` (rule R71). -/
  | stat
  /-- `CLR` (rule R61). -/
  | clr
  /-- Row ILLEGAL.op0 (rules R34, R92): opcode `0x0` with any operand field. -/
  | illegalOp0 (arg : Word)
  /-- Row ILLEGAL.op6_7: opcode `op`, `0x6` or `0x7` (checked by `WellFormed`), with any operand field. -/
  | illegalOp67 (op : Opcode) (arg : Word)
  /-- Row ILLEGAL.op8_F: opcode `op`, `0x8` to `0xF` (checked by `WellFormed`), with any operand field. -/
  | illegalOp8F (op : Opcode) (arg : Word)
  /-- Pseudo-instruction `INIT` (rule R62): the assembler's name for `SEED 0x00000000`. -/
  | init
  /-- Pseudo-instruction `UPDS b0, ..., b(n-1)` (rule R66): the assembler's name for `n` commands `UPD`. -/
  | upds (bs : List Byte)
deriving DecidableEq, Repr

/-- What an instruction stands for as single words: the expansions of rule R37; every other row is itself. -/
def expand : Instr → List Instr
  | .seed s => [.seed s]
  | .upd b => [.upd b]
  | .read => [.read]
  | .stat => [.stat]
  | .clr => [.clr]
  | .illegalOp0 arg => [.illegalOp0 arg]
  | .illegalOp67 op arg => [.illegalOp67 op arg]
  | .illegalOp8F op arg => [.illegalOp8F op arg]
  | .init => [.seed 0x00000000#32]
  | .upds bs => bs.map .upd

end Sys2Proof
end

