-- ==== Sys2Proof/Machine/Operands.lean ====
section
/-! DEFINITION. The fields of the two 36-bit words and operand assembly (30_encoding.md rules R30, R31, R33). Operands are
taken "without scaling, shifting or sign extension"; a byte meets the 32-bit path only through `zextByte`. -/

namespace Sys2Proof.Machine

/-- `CW[35:32]` (rule R30). -/
def cwOp (w : CommandWord) : Opcode := w.extractLsb' 32 4

/-- `CW[31:0]` (rule R30). -/
def cwArg (w : CommandWord) : Word := w.extractLsb' 0 32

/-- The command word `op ‖ arg` (rule R30). -/
def mkCommand (op : Opcode) (arg : Word) : CommandWord := op ++ arg

/-- SEED's operand `arg[31:0]`: the whole field (rule R33). -/
def seedOperand (arg : Word) : Word := arg

/-- UPD's operand `arg[7:0]` (rule R33). -/
def byteOperand (arg : Word) : Byte := arg.extractLsb' 0 8

/-- UPD's reserved bits `arg[31:8]` (rule R32: "must be 0"). -/
def updReserved (arg : Word) : BitVec 24 := arg.extractLsb' 8 24

/-- `zext_32(b)` for a byte (rules R7, R33). -/
def zextByte (b : Byte) : Word := b.setWidth 32

/-- `zext_32(v)` for a flag (rules R7, R71). -/
def zextFlag : Bool → Word
  | false => 0x00000000#32
  | true => 0x00000001#32

/-- `RW[35:32]` (rule R31). -/
def rwStatus (r : ResponseWord) : BitVec 4 := r.extractLsb' 32 4

/-- `RW[31:0]` (rule R31). -/
def rwData (r : ResponseWord) : Word := r.extractLsb' 0 32

/-- The response word `status ‖ data` (rule R31). -/
def mkResponse (status : BitVec 4) (data : Word) : ResponseWord := status ++ data

end Sys2Proof.Machine
end

