-- ==== Sys2Proof/WellFormed.lean ====
section
/-! DEFINITION. Which `Instr` terms stand for words of their row. Operand widths are in the types; what remains is that
the two illegal classes with an opcode field name an opcode of their class (30_encoding.md rule R32: `0x6` to `0xF`). -/

namespace Sys2Proof

/-- The check: the opcode of an illegal class is one of that class. -/
def wellFormed : Instr → Bool
  | .seed _ => true
  | .upd _ => true
  | .read => true
  | .stat => true
  | .clr => true
  | .illegalOp0 _ => true
  | .illegalOp67 op _ => op == 0x6#4 || op == 0x7#4
  | .illegalOp8F op _ => op.msb
  | .init => true
  | .upds _ => true

/-- `wellFormed` as a proposition. -/
abbrev WellFormed (i : Instr) : Prop := wellFormed i = true

end Sys2Proof
end

