-- ==== Sys2Proof/Decode.lean ====
section
/-! DEFINITION. The total decoder of 30_encoding.md rule R39 and the encoder of rules R32, R36, R37.
Decode reads no state (rule R39). The illegal words that have a row of opcode_table.json (reserved opcodes) decode to that
row; the illegal words that have none (rule R34 b, c: a stray operand bit) are rejected, each by name. Both kinds raise
`IllegalCommand` when they run (rule R92). The pseudo-instructions have no word of their own (rules R62, R66): no word
decodes to them. -/

namespace Sys2Proof

open Sys2Proof.Machine

/-- Why a word is no row of the table (rule R34 b, c). -/
inductive Rejection where
  /-- `op = 0x2` and `arg[31:8] ≠ 0`: not `UPD` of its low byte. -/
  | updReservedBits
  /-- `op = 0x3` and `arg ≠ 0`. -/
  | readOperand
  /-- `op = 0x4` and `arg ≠ 0`. -/
  | statOperand
  /-- `op = 0x5` and `arg ≠ 0`. -/
  | clrOperand
deriving DecidableEq, Repr

/-- What the decoder answers for a command word. -/
inductive Decoded where
  /-- The word is of this row. -/
  | instr (i : Instr)
  /-- The word is of no row: illegal, for this reason. -/
  | reject (why : Rejection)
deriving DecidableEq, Repr

/-- The decode procedure of rule R39, in its order; its `ILLEGAL` is split by what makes the word illegal (rule R34). -/
def decode (w : CommandWord) : Decoded :=
  let op := cwOp w
  let arg := cwArg w
  if op = 0x1#4 then .instr (.seed (seedOperand arg))
  else if op = 0x2#4 then
    if updReserved arg = 0#24 then .instr (.upd (byteOperand arg)) else .reject .updReservedBits
  else if op = 0x3#4 then if arg = 0#32 then .instr .read else .reject .readOperand
  else if op = 0x4#4 then if arg = 0#32 then .instr .stat else .reject .statOperand
  else if op = 0x5#4 then if arg = 0#32 then .instr .clr else .reject .clrOperand
  else if op = 0x0#4 then .instr (.illegalOp0 arg)
  else if op = 0x6#4 ∨ op = 0x7#4 then .instr (.illegalOp67 op arg)
  else .instr (.illegalOp8F op arg)

/-- The instruction a decoded word is, if it is one. -/
def decodedInstr : Decoded → Option Instr
  | .instr i => some i
  | .reject _ => none

/-- The words of an instruction (rules R32, R36): one for a row with an encoding; those of the expansion for a
pseudo-instruction (rule R37). An illegal class is written as `.word` writes it. -/
def encode : Instr → List CommandWord
  | .seed s => [mkCommand 0x1#4 s]
  | .upd b => [mkCommand 0x2#4 (zextByte b)]
  | .read => [mkCommand 0x3#4 0#32]
  | .stat => [mkCommand 0x4#4 0#32]
  | .clr => [mkCommand 0x5#4 0#32]
  | .illegalOp0 arg => [mkCommand 0x0#4 arg]
  | .illegalOp67 op arg => [mkCommand op arg]
  | .illegalOp8F op arg => [mkCommand op arg]
  | .init => [mkCommand 0x1#4 0#32]
  | .upds bs => bs.map fun b => mkCommand 0x2#4 (zextByte b)

/-- The command word whose bits are `w`, `nbits` of them given and every bit above them 0; `none` for a number with a bit
above bit 35, which no command word is (log entry 9). -/
def tableWord (nbits w : Nat) : Option CommandWord :=
  if w % 2 ^ nbits < 2 ^ 36 then some (BitVec.ofNat 36 (w % 2 ^ nbits)) else none

/-- The instruction the decoder reads from a word of the opcode table. -/
def decodeTableWord (nbits w : Nat) : Option Instr :=
  match tableWord nbits w with
  | some cw => decodedInstr (decode cw)
  | none => none

end Sys2Proof
end

