-- ==== Sys2Proof/Config.lean ====
section
/-! DEFINITION. The parameters of the block (00_scope.md rule R5). The rows that rule marks *configuration* are the
fields of `Config`, "so that a different reading of the source can be substituted without touching the machine"; the
block's values of them are `Machine.blockConfig` (Machine/Crc.lean). The open parameters `LATENCY` and `PLATFORM_MAP`
are not here: no rule depends on them and the model has no time and no addresses (log entry 14). -/

namespace Sys2Proof

/-- The configuration rows of rule R5: which CRC-32 the block computes. -/
structure Config where
  /-- `POLY`: the generator's coefficients, `x^31` in bit 31 (rule R44); used by the left-shifting form only. -/
  poly : Word
  /-- `POLY_R`: `POLY` with its 32 bits reversed (rule R44); used by the right-shifting form. -/
  polyR : Word
  /-- `REFLECT`: bytes are absorbed least-significant bit first (rule R23). -/
  reflect : Bool
  /-- `XORIO`: the mask between the checksum domain and the register domain, in and out (rule R47). -/
  xorio : Word
deriving DecidableEq, Repr

/-- `FRESH_SEED` (rule R5, rule R42): "The zero seed is the initial value for a fresh computation." -/
abbrev freshSeed : Word := 0x00000000#32

/-- `P` (rule R5): the HOST's chunk and partial-fingerprint length in bytes; the block does not know it. -/
abbrev hostP : Nat := 1024

end Sys2Proof
end

