-- ==== Sys2Proof/Machine/Crc.lean ====
section
/-! DEFINITION. The function `crc_update` of 40_crc_function.md, bit by bit (rules R44 to R48), over a `Config`, and the
block's configuration (rule R5, decision D1). The block applies `crcByte blockConfig` and nothing else of this file
(rule R47: "This is the only function the UPD command applies"). -/

namespace Sys2Proof.Machine

/-- The block's parameter values (rule R5; the digits are decision D1 of the spec, log entry 6). -/
def blockConfig : Config where
  poly := 0x04C11DB7#32
  polyR := 0xEDB88320#32
  reflect := true
  xorio := 0xFFFFFFFF#32

/-- `step_bit` (rule R45). The right-shifting form is the rule's; the left-shifting form for `reflect = false`, which the
block does not use, is the unreflected variant rule R58 gives check values of (PRESUMED, log entry 5). -/
def stepBit (k : Config) (r : Word) : Word :=
  if k.reflect then
    if r.getLsbD 0 then (r >>> 1) ^^^ k.polyR else r >>> 1
  else
    if r.msb then (r <<< 1) ^^^ k.poly else r <<< 1

/-- `raw_byte` (rule R46): the byte is exclusive-ored into the end of the register that the steps examine first, and the
register is stepped eight times. -/
def rawByte (k : Config) (r : Word) (b : Byte) : Word :=
  (stepBit k)^[8] (r ^^^ if k.reflect then zextByte b else zextByte b <<< 24)

/-- `crc_byte` (rule R47): one byte in the checksum domain. -/
def crcByte (k : Config) (c : Word) (b : Byte) : Word :=
  rawByte k (c ^^^ k.xorio) b ^^^ k.xorio

/-- `crc_update` (rule R48): the fold over the buffer, in increasing index (rule R22). -/
def crcUpdate (k : Config) (s : Word) (buf : List Byte) : Word :=
  buf.foldl (crcByte k) s

/-- `unstep_bit` (rule R52), the inverse of the right-shifting `step_bit`. -/
def unstepBit (k : Config) (r : Word) : Word :=
  if r.msb then ((r ^^^ k.polyR) <<< 1) ||| 1#32 else r <<< 1

/-- The four bytes `b3 ‖ b2 ‖ b1 ‖ b0` as one value, the first byte lowest (rule R52). -/
def packBytes (b0 b1 b2 b3 : Byte) : Word := b3 ++ b2 ++ b1 ++ b0

end Sys2Proof.Machine
end

