-- ==== Sys2Proof/Machine/State.lean ====
section
/-! DEFINITION. The state of the machine as plain data, the two errors, the reasons a step could stop, and reset.
The spec's architectural state is exactly one register, the accumulator (10_state.md rule R10). The other three fields are
the model's own: the transaction-level channels and the reset input of 70_reset_and_hazards.md rules R105 and R118, which
stand in State because the interface's step has no input and no output (log entries 2, 3). -/

namespace Sys2Proof.Machine

/-- The machine. -/
structure State where
  /-- `ACC`: `none` is `unset` (`ACC.VALID = 0`; `ACC.VAL` then has no value), `some v` is `computed(v)` (`ACC.VALID = 1`,
  `ACC.VAL = v`, checksum domain). The state type rule R10 names. -/
  acc : Option (BitVec 32)
  /-- The level of the reset input `rst` (rule R105). -/
  rst : Bool
  /-- The command channel (rule R118): words accepted and not yet executed, oldest first. -/
  commands : List (BitVec 36)
  /-- The response channel (rule R118): words emitted and not yet delivered, oldest first. -/
  responses : List (BitVec 36)
deriving DecidableEq, Repr

/-- A step of this machine never stops with a fault: "the step function is total" (rule R19; 93_implementation_defined.md
part 1: "Nothing in this block is treated as `stuck`"). No constructor, so no state can raise one; safe. The block's two
errors are next states (`State.raise`). -/
inductive Fault where
deriving DecidableEq, Repr

/-- Reasons to refuse an instruction. -/
inductive Refusal where
  /-- Raised by an arm of `exec` whose instruction has no meaning yet; safe. No arm of this model raises it. -/
  | notModelled (mnemonic : String)
deriving DecidableEq, Repr

/-- The status codes a version 1 block produces (rule R38); "the response type has exactly three status values"
(93_implementation_defined.md U4). -/
inductive Status where
  /-- `OK`: the command executed. -/
  | ok
  /-- `ERR_UNSET`. -/
  | errUnset
  /-- `ERR_ILLEGAL`. -/
  | errIllegal
deriving DecidableEq, Repr

/-- The two error causes (60_exceptions.md rules R90 to R93). -/
inductive Error where
  /-- Rule R91: the command needs a valid accumulator and there is none. -/
  | unsetAccumulator
  /-- Rule R92: the word is illegal. -/
  | illegalCommand
deriving DecidableEq, Repr

/-- The machine right after reset: `ACC` is `unset` (rules R16, R106), both channels are empty (rule R107), and `rst` is
released (log entry 3). -/
def State.reset : State where
  acc := none
  rst := false
  commands := []
  responses := []

end Sys2Proof.Machine
end

