-- ==== Sys2Proof/Machine/Flags.lean ====
section
/-! DEFINITION. The block's only flag, `ACC.VALID` (10_state.md rule R12), the status word that shows it (rule R15), and
the status codes of the response word (30_encoding.md rule R38). -/

namespace Sys2Proof.Machine

/-- `ACC.VALID` (rules R10, R12). -/
def State.valid (s : State) : Bool := s.acc.isSome

/-- The status word (rule R15): bit 0 a copy of `ACC.VALID`, bits 31 to 1 zero. A view, not state. -/
def State.statusWord (s : State) : Word := zextFlag s.valid

/-- The status code in `RW[35:32]` (rule R38). -/
def statusCode : Status → BitVec 4
  | .ok => 0x0#4
  | .errUnset => 0x1#4
  | .errIllegal => 0x2#4

/-- `code(E)` as a status (rule R96). -/
def errorStatus : Error → Status
  | .unsetAccumulator => .errUnset
  | .illegalCommand => .errIllegal

end Sys2Proof.Machine
end

