-- ==== Sys2Proof/Machine/Ops.lean ====
section
/-! DEFINITION. The named operations: on the accumulator, on the response channel, error entry (the block's form of taking
an exception, ONE shared operation), and what the outside does to the channels and to `rst`. There is no return from an
error beside it: "There is no return instruction" (60_exceptions.md rule R97), SEED recovers. -/

namespace Sys2Proof.Machine

/-- `respond(status, data)` (rule R31): one response word behind those already emitted (rule R27). -/
def State.respond (s : State) (st : Status) (data : Word) : State :=
  { s with responses := s.responses ++ [mkResponse (statusCode st) data] }

/-- `ACC <- computed(v)` (rule R7): both fields together. -/
def State.setAcc (s : State) (v : Word) : State := { s with acc := some v }

/-- `ACC <- unset` (rule R7). -/
def State.clearAcc (s : State) : State := { s with acc := none }

/-- Error entry (rule R96): the accumulator is poisoned and the response carries the code and data 0. Nothing is saved, no
mode changes, control goes nowhere. -/
def State.raise (s : State) (e : Error) : State := s.clearAcc.respond (errorStatus e) 0x00000000#32

/-- The start of UPD and READ: raise `UnsetAccumulator` when `ACC.VALID = 0`, else go on with `ACC.VAL` (rule R91). -/
def State.withAcc (s : State) (go : Word → State) : State :=
  match s.acc with
  | none => s.raise .unsetAccumulator
  | some v => go v

/-- Load a seed (rule R60): `ACC <- computed(v); respond(OK, 0)`. -/
def State.loadSeed (s : State) (v : Word) : State := (s.setAcc v).respond .ok 0x00000000#32

/-- Absorb one byte (rule R65), or raise `UnsetAccumulator`, the byte being lost. -/
def State.absorb (s : State) (b : Byte) : State :=
  s.withAcc fun v => (s.setAcc (crcByte blockConfig v b)).respond .ok 0x00000000#32

/-- The reset transition (rules R105 to R107): from any state to the reset state, both channels emptied. It stands for the
assertion and the release of `rst` together (log entry 3). -/
def State.takeReset (_ : State) : State := State.reset

/-- The next command word of the channel, and the machine with that word consumed (rules R27, R29). -/
def State.nextCommand (s : State) : Option (CommandWord × State) :=
  match s.commands with
  | [] => none
  | w :: rest => some (w, { s with commands := rest })

/-- Host: present a command word (rule R118). While `rst` is asserted no word is accepted (rule R105). -/
def State.acceptCommand (s : State) (w : CommandWord) : State :=
  if s.rst then s else { s with commands := s.commands ++ [w] }

/-- Host: take the oldest response (rule R118); none is delivered while `rst` is asserted (rule R105). -/
def State.deliverResponse (s : State) : Option (ResponseWord × State) :=
  if s.rst then none
  else match s.responses with
    | [] => none
    | r :: rest => some (r, { s with responses := rest })

/-- Host: assert `rst` (rule R105). -/
def State.assertReset (s : State) : State := { s with rst := true }

/-- A word placed so that the next step runs it: at the head of the command channel, `rst` released. A number that is no
36-bit word cannot cross the channel and changes nothing (log entry 9). -/
def State.placeWord (s : State) (nbits w : Nat) : State :=
  match tableWord nbits w with
  | some cw => { s with rst := false, commands := cw :: s.commands }
  | none => s

end Sys2Proof.Machine
end

