-- ==== Sys2Proof/Machine/Illegal.lean ====
section
/-! DEFINITION. The illegal command words (30_encoding.md rule R34, 60_exceptions.md rule R92): in every state their only
effect is the error entry of rule R96, and "the offending word is not echoed". One meaning for each row of the table, and
one for the words the decoder rejects. -/

namespace Sys2Proof.Machine

/-- A word with opcode `0x0` (rule R92). -/
def execIllegalOp0 (s : State) : Host.Outcome State Fault Refusal :=
  .next (s.raise .illegalCommand)

/-- A word with opcode `0x6` or `0x7` (rule R92). -/
def execIllegalOp67 (s : State) : Host.Outcome State Fault Refusal :=
  .next (s.raise .illegalCommand)

/-- A word with opcode `0x8` to `0xF` (rule R92). -/
def execIllegalOp8F (s : State) : Host.Outcome State Fault Refusal :=
  .next (s.raise .illegalCommand)

/-- A word of no row: a command's opcode with a stray operand bit (rules R34 b, c and R92), for each reason alike. -/
def execRejected (why : Rejection) (s : State) : Host.Outcome State Fault Refusal :=
  match why with
  | .updReservedBits => .next (s.raise .illegalCommand)
  | .readOperand => .next (s.raise .illegalCommand)
  | .statOperand => .next (s.raise .illegalCommand)
  | .clrOperand => .next (s.raise .illegalCommand)

end Sys2Proof.Machine
end

