-- ==== Sys2Proof/Machine/Observe.lean ====
section
/-! DEFINITION. The commands that observe the accumulator: READ and STAT (43_observe.md). -/

namespace Sys2Proof.Machine

/-- `READ` (rule R70): the running checksum, or `UnsetAccumulator`. -/
def execRead (s : State) : Host.Outcome State Fault Refusal :=
  .next (s.withAcc fun v => s.respond .ok v)

/-- `STAT` (rule R71): the status word; legal in every state. -/
def execStat (s : State) : Host.Outcome State Fault Refusal :=
  .next (s.respond .ok s.statusWord)

end Sys2Proof.Machine
end

