-- ==== Sys2Proof/Machine/SeedControl.lean ====
section
/-! DEFINITION. The commands that set or clear the accumulator: SEED, CLR and the pseudo-instruction INIT
(41_seed_control.md). None has an error; all run in every state. -/

namespace Sys2Proof.Machine

/-- `SEED v` (rule R60). -/
def execSeed (v : Word) (s : State) : Host.Outcome State Fault Refusal :=
  .next (s.loadSeed (seedOperand v))

/-- `CLR` (rule R61): `ACC <- unset; respond(OK, 0)`. -/
def execClr (s : State) : Host.Outcome State Fault Refusal :=
  .next (s.clearAcc.respond .ok 0x00000000#32)

/-- `INIT` (rule R62): "Its semantics are those of rule R60 with `s = 0`". -/
def execInit (s : State) : Host.Outcome State Fault Refusal :=
  .next (s.loadSeed freshSeed)

end Sys2Proof.Machine
end

