-- ==== Sys2Proof/Machine/Update.lean ====
section
/-! DEFINITION. The command that absorbs data: UPD and the pseudo-instruction UPDS (42_update.md). -/

namespace Sys2Proof.Machine

/-- `UPD b` (rule R65). -/
def execUpd (b : Byte) (s : State) : Host.Outcome State Fault Refusal :=
  .next (s.absorb b)

/-- `UPDS b0, ..., b(n-1)` (rule R66): the `n` commands UPD in that order, each with its own response, and with its own
`UnsetAccumulator` where the accumulator is unset. No word decodes to it: a run executes its UPD words one step each
(log entry 8). -/
def execUpds (bs : List Byte) (s : State) : Host.Outcome State Fault Refusal :=
  .next (bs.foldl State.absorb s)

end Sys2Proof.Machine
end

