-- ==== Sys2Proof/Machine/Dispatch.lean ====
section
/-! DEFINITION. The meaning of every instruction: one arm per constructor of `Instr`. -/

namespace Sys2Proof.Machine

/-- The effect of an instruction whose word has been consumed from the command channel. -/
def exec (i : Instr) (s : State) : Host.Outcome State Fault Refusal :=
  match i with
  | .seed v => Sys2Proof.Machine.execSeed v s
  | .upd b => Sys2Proof.Machine.execUpd b s
  | .read => Sys2Proof.Machine.execRead s
  | .stat => Sys2Proof.Machine.execStat s
  | .clr => Sys2Proof.Machine.execClr s
  | .illegalOp0 _ => Sys2Proof.Machine.execIllegalOp0 s
  | .illegalOp67 _ _ => Sys2Proof.Machine.execIllegalOp67 s
  | .illegalOp8F _ _ => Sys2Proof.Machine.execIllegalOp8F s
  | .init => Sys2Proof.Machine.execInit s
  | .upds bs => Sys2Proof.Machine.execUpds bs s

end Sys2Proof.Machine
end

