-- ==== Sys2Proof/Machine/Step.lean ====
section
/-! DEFINITION. One step: the reset transition if `rst` is asserted (60_exceptions.md rule R95: "Reset has priority over
everything"), else the next command word of the channel, else nothing (70_reset_and_hazards.md rule R116: after the last
response the block "is idle and ready"). -/

namespace Sys2Proof.Machine

/-- One step of the machine. -/
def step (s : State) : Host.Outcome State Fault Refusal :=
  if s.rst then .next s.takeReset
  else match s.nextCommand with
    | none => .next s
    | some (w, t) =>
      match decode w with
      | .instr i => exec i t
      | .reject why => execRejected why t

/-- `s` with the word whose bits are `w` placed where `step` takes its next command (log entry 4). -/
def State.withFetchWord (s : State) (nbits w : Nat) : State := s.placeWord nbits w

end Sys2Proof.Machine
end

