-- ==== Sys2Proof/Machine/Assembler.lean ====
section
/-! DEFINITION. The assembler of 30_encoding.md rules R36 and R37: one command a line, case-insensitive mnemonics, decimal
or `0x` numbers, `;` comments, the pseudo-instructions, and `.word`. A refused line is `none`. Text is a list of
characters. Details the rules leave open are log entry 10. -/

namespace Sys2Proof.Machine

/-- A line as its parts: what stands on it, operands still plain numbers (rules R36, R37). -/
inductive AsmLine where
  /-- Nothing but a comment or blanks. -/
  | blank
  /-- `seed <imm32>`. -/
  | seed (n : Nat)
  /-- `upd <imm8>`. -/
  | upd (n : Nat)
  /-- `read`. -/
  | read
  /-- `stat`. -/
  | stat
  /-- `clr`. -/
  | clr
  /-- `init`. -/
  | init
  /-- `upds <b0>, <b1>, ...`. -/
  | upds (ns : List Nat)
  /-- `upds "<text>"`. -/
  | updsText (cs : List Char)
  /-- `.word <36-bit value>`. -/
  | word (n : Nat)
deriving DecidableEq, Repr

/-- The words a line assembles to; "else the assembler refuses the line" (rules R36, R37). -/
def assembleLine : AsmLine → Option (List CommandWord)
  | .blank => some []
  | .seed n => if n ≤ 0xFFFFFFFF then some (encode (.seed (BitVec.ofNat 32 n))) else none
  | .upd n => if n ≤ 0xFF then some (encode (.upd (BitVec.ofNat 8 n))) else none
  | .read => some (encode .read)
  | .stat => some (encode .stat)
  | .clr => some (encode .clr)
  | .init => some (encode .init)
  | .upds ns => if ns.all (fun n => decide (n ≤ 0xFF)) then some (encode (.upds (ns.map (BitVec.ofNat 8)))) else none
  | .updsText cs =>
    if cs.all (fun c => decide (c.toNat ≤ 0x7F)) then some (encode (.upds (cs.map fun c => BitVec.ofNat 8 c.toNat))) else none
  | .word n => if n < 2 ^ 36 then some [BitVec.ofNat 36 n] else none

/-- The words of a sequence of lines; none if one line is refused. -/
def assembleLines : List AsmLine → Option (List CommandWord)
  | [] => some []
  | l :: ls =>
    match assembleLine l, assembleLines ls with
    | some ws, some vs => some (ws ++ vs)
    | some _, none => none
    | none, some _ => none
    | none, none => none

/-- A blank of a line. -/
def isBlankChar (c : Char) : Bool := c == ' ' || c == '\t' || c == '\r'

/-- The line up to its comment (rule R36: "`;` starts a comment"); a `;` between quotes is text. -/
def stripComment : Bool → List Char → List Char
  | _, [] => []
  | quoted, c :: cs =>
    if c == ';' && !quoted then [] else c :: stripComment (if c == '"' then !quoted else quoted) cs

/-- Without the blanks at either end. -/
def trimBlanks (cs : List Char) : List Char :=
  ((cs.dropWhile isBlankChar).reverse.dropWhile isBlankChar).reverse

/-- The lower-case form of a letter (rule R36: "mnemonics are case-insensitive"). -/
def lowerChar (c : Char) : Char :=
  if decide (65 ≤ c.toNat) && decide (c.toNat ≤ 90) then Char.ofNat (c.toNat + 32) else c

/-- The value of a digit in base 10 or 16. -/
def digitValue (base : Nat) (c : Char) : Option Nat :=
  let n := c.toNat
  if decide (48 ≤ n) && decide (n ≤ 57) then some (n - 48)
  else if base == 16 && decide (97 ≤ n) && decide (n ≤ 102) then some (n - 87)
  else if base == 16 && decide (65 ≤ n) && decide (n ≤ 70) then some (n - 55)
  else none

/-- The value of a row of digits, most significant first, continuing from `acc`. -/
def digitsValue (base : Nat) : Nat → List Char → Option Nat
  | acc, [] => some acc
  | acc, c :: cs =>
    match digitValue base c with
    | none => none
    | some d => digitsValue base (acc * base + d) cs

/-- A number: "hexadecimal with `0x` or decimal" (rule R36). -/
def readNumber : List Char → Option Nat
  | [] => none
  | '0' :: 'x' :: [] => none
  | '0' :: 'x' :: d :: ds => digitsValue 16 0 (d :: ds)
  | d :: ds => digitsValue 10 0 (d :: ds)

/-- A 36-bit value: a number, or the form `0x<digit>_<eight digits>` of 00_scope.md rule R6. -/
def readWordNumber : List Char → Option Nat
  | '0' :: 'x' :: t :: '_' :: ds => if ds.length == 8 then digitsValue 16 0 (t :: ds) else none
  | cs => readNumber cs

/-- The pieces between commas. -/
def splitCommas : List Char → List (List Char)
  | [] => [[]]
  | c :: cs =>
    match splitCommas cs with
    | [] => [[c]]
    | p :: ps => if c == ',' then [] :: p :: ps else (c :: p) :: ps

/-- The numbers of a comma-separated list. -/
def readNumbers : List (List Char) → Option (List Nat)
  | [] => some []
  | p :: ps =>
    match readNumber (trimBlanks p), readNumbers ps with
    | some n, some ns => some (n :: ns)
    | some _, none => none
    | none, some _ => none
    | none, none => none

/-- The text up to the closing quote, which must end the operand. -/
def readText : List Char → Option (List Char)
  | [] => none
  | '"' :: [] => some []
  | '"' :: _ :: _ => none
  | c :: cs => (readText cs).map (c :: ·)

/-- The operands of `upds`: nothing, a quoted text, or a list of numbers (rule R37). -/
def readUpds : List Char → Option AsmLine
  | [] => some (.upds [])
  | '"' :: cs => (readText cs).map .updsText
  | c :: cs => (readNumbers (splitCommas (c :: cs))).map .upds

/-- A command without operand: the rest of the line must be empty. -/
def readNoOperand (l : AsmLine) : List Char → Option AsmLine
  | [] => some l
  | _ :: _ => none

/-- One line of assembly: "a mnemonic, then its operand if it has one" (rule R36). That the directive `.word` is
case-insensitive like a mnemonic is the model's choice (log entry 10). -/
def readLine (line : List Char) : Option AsmLine :=
  let cs := trimBlanks (stripComment false line)
  let mnemonic := (cs.takeWhile fun c => !isBlankChar c).map lowerChar
  let operand := trimBlanks (cs.dropWhile fun c => !isBlankChar c)
  if mnemonic = [] then some .blank
  else if mnemonic = ['s', 'e', 'e', 'd'] then (readNumber operand).map .seed
  else if mnemonic = ['u', 'p', 'd'] then (readNumber operand).map .upd
  else if mnemonic = ['r', 'e', 'a', 'd'] then readNoOperand .read operand
  else if mnemonic = ['s', 't', 'a', 't'] then readNoOperand .stat operand
  else if mnemonic = ['c', 'l', 'r'] then readNoOperand .clr operand
  else if mnemonic = ['i', 'n', 'i', 't'] then readNoOperand .init operand
  else if mnemonic = ['u', 'p', 'd', 's'] then readUpds operand
  else if mnemonic = ['.', 'w', 'o', 'r', 'd'] then (readWordNumber operand).map .word
  else none

/-- The words of one line of text; none if the assembler refuses it. -/
def assembleText (line : List Char) : Option (List CommandWord) := (readLine line).bind assembleLine

end Sys2Proof.Machine
end

