-- ==== Sys2Proof/Machine/History.lean ====
section
/-! DEFINITION. The history that 10_state.md rule R11 speaks of: "the operand of the most recent SEED command executed
without error" and "the sequence of bytes given by the UPD commands executed without error since that SEED". It is no
state of the block, which keeps neither (rule R18); it is what a claim about `ACC.VAL` is stated with. -/

namespace Sys2Proof.Machine

/-- A stream in progress: its seed and the bytes absorbed since, in execution order (rule R11). -/
structure Stream where
  /-- The operand of the most recent SEED. -/
  seed : Word
  /-- The bytes absorbed since. -/
  bytes : List Byte
deriving DecidableEq, Repr

/-- The stream after one more instruction: SEED begins one; UPD extends it, if there is one; READ and STAT leave it; CLR and
every error end it (rules R11, R12). -/
def trackInstr (h : Option Stream) (i : Instr) : Option Stream :=
  match i with
  | .seed v => some ⟨v, []⟩
  | .upd b => h.map fun t => ⟨t.seed, t.bytes ++ [b]⟩
  | .read => h
  | .stat => h
  | .clr => none
  | .illegalOp0 _ => none
  | .illegalOp67 _ _ => none
  | .illegalOp8F _ _ => none
  | .init => some ⟨0x00000000#32, []⟩
  | .upds bs => h.map fun t => ⟨t.seed, t.bytes ++ bs⟩

/-- The stream after one more command word. -/
def trackWord (h : Option Stream) (w : CommandWord) : Option Stream :=
  match decode w with
  | .instr i => trackInstr h i
  | .reject _ => none

/-- The stream after a sequence of command words. -/
def trackWords (h : Option Stream) (ws : List CommandWord) : Option Stream := ws.foldl trackWord h

/-- `crc_update(s, B)` of a stream (rule R11). -/
def streamChecksum (t : Stream) : Word := crcUpdate blockConfig t.seed t.bytes

end Sys2Proof.Machine
end

