-- ==== Sys2Proof/Machine/HostSequences.lean ====
section
/-! DEFINITION. What the host does with the block (44_host_sequences.md). "These rules bind the host, not the block": the
block knows of none of this, and nothing here is State. The host is single-threaded and synchronous (00_scope.md rule R8):
it presents one word, lets the block run it, and takes the response. It uses the block only through `step` and the
channel operations of Ops. -/

namespace Sys2Proof.Machine

/-- One synchronous exchange: the word is accepted, the block makes one step, the oldest response is delivered; none where
the block has no response to deliver, as when `rst` was asserted (rules R105, R107). -/
def transact (s : State) (w : CommandWord) : Option (ResponseWord × State) :=
  match step (s.acceptCommand w) with
  | .next t => t.deliverResponse
  | .fault _ => none
  | .refused _ => none

/-- A run of the synchronous host (rule R116): the responses in order, and the state after the last; none for a run that is
cut. -/
def converse : State → List CommandWord → Option (List ResponseWord × State)
  | s, [] => some ([], s)
  | s, w :: ws =>
    match transact s w with
    | none => none
    | some (r, t) =>
      match converse t ws with
      | none => none
      | some (rs, u) => some (r :: rs, u)

/-- How the host reads a READ response: a checksum only if the status is `OK` (rules R70, R80), so that a zero checksum is
never confused with none. -/
def responseChecksum (r : ResponseWord) : Option Word :=
  if rwStatus r = statusCode .ok then some (rwData r) else none

/-- The call `crc_update(s, Buf)` as a command sequence (rule R75). -/
def callWords (s : Word) (buf : List Byte) : List CommandWord :=
  encode (.seed s) ++ encode (.upds buf) ++ encode .read

/-- The call `crc_update(s, Buf)` made on the block: the data of the READ response (rule R75). -/
def callBlock (s : State) (seed : Word) (buf : List Byte) : Option (Word × State) :=
  match converse s (callWords seed buf) with
  | none => none
  | some (rs, t) =>
    match rs.getLast?.bind responseChecksum with
    | none => none
    | some v => some (v, t)

/-- Form (a) of rule R76: one computation kept in the block, the pieces absorbed one after the other. -/
def streamWords (pieces : List (List Byte)) : List CommandWord :=
  encode .init ++ pieces.flatMap (fun a => encode (.upds a)) ++ encode .read

/-- Form (b) of rule R76: one call for each piece, the checksum carried by the host. -/
def chainCalls : State → Word → List (List Byte) → Option (Word × State)
  | s, c, [] => some (c, s)
  | s, c, a :: rest =>
    match callBlock s c a with
    | none => none
    | some (v, t) => chainCalls t v rest

/-- The bytes of the partial fingerprint: `File[0 .. min(size, P))` (rule R77). -/
def partialBytes (p size : Nat) (file : List Byte) : List Byte := file.take (min size p)

/-- The bytes of the full fingerprint: `size` bytes from offset 0 (rule R78); all of the file where `size` is its length. -/
def fullBytes (size : Nat) (file : List Byte) : List Byte := file.take size

/-- A reading of `file` in consecutive chunks of at most `P` bytes (rule R78). -/
def IsChunking (p : Nat) (chunks : List (List Byte)) (file : List Byte) : Prop :=
  chunks.flatten = file ∧ ∀ c ∈ chunks, c.length ≤ p

/-- Bytes as the host's successive reads give them, at most as many reads as the first argument: each gives the next bytes
in file order, as many as `lengths` says but at least one and at most `P` (`P` where `lengths` has run out). -/
def readChunks (p : Nat) : Nat → List Nat → List Byte → List (List Byte)
  | 0, _, _ => []
  | _ + 1, _, [] => []
  | k + 1, lengths, b :: bs =>
    let n := max 1 (min (lengths.headD p) p)
    (b :: bs).take n :: readChunks p k lengths.tail ((b :: bs).drop n)

/-- The chunks in which the host reads `bytes`: from the first byte, in order, each byte once (rules R78, R81). -/
def chunksOf (p : Nat) (lengths : List Nat) (bytes : List Byte) : List (List Byte) :=
  readChunks p bytes.length lengths bytes

/-- How the host's reading of the bytes of a fingerprint went (rule R79); the bytes themselves are the file's (rule R81).
What counts as a failure is the host's to say (93_implementation_defined.md U14; log entry 11). -/
inductive FileRead where
  /-- All the bytes there were read, the successive reads giving chunks of these lengths. -/
  | complete (lengths : List Nat)
  /-- Opening or reading failed after the first `after` bytes had been absorbed, in chunks of these lengths. -/
  | failed (after : Nat) (lengths : List Nat)
deriving DecidableEq, Repr

/-- The reading did not fail. -/
def FileRead.succeeds : FileRead → Bool
  | .complete _ => true
  | .failed _ _ => false

/-- The commands of one fingerprint computation over `bytes` (rules R77, R78, R81): the fresh seed, then the bytes and
nothing else. On failure the host "must not issue READ to record it, and should issue CLR" (rule R79). Of the two forms rule
R78 allows, the model's choice is form (a) of rule R76, one computation kept in the block (log entry 15). -/
def fingerprintWords (p : Nat) (bytes : List Byte) : FileRead → List CommandWord
  | .complete lengths => streamWords (chunksOf p lengths bytes)
  | .failed after lengths =>
    encode .init ++ (chunksOf p lengths (bytes.take after)).flatMap (fun a => encode (.upds a)) ++ encode .clr

/-- One fingerprint computation on the block: its value, none after a failure (rule R79), and the block afterwards. -/
def fingerprint (p : Nat) (s : State) (bytes : List Byte) (rd : FileRead) : Option (Option Word × State) :=
  match converse s (fingerprintWords p bytes rd) with
  | none => none
  | some (rs, t) =>
    match rd with
    | .complete _ => some (rs.getLast?.bind responseChecksum, t)
    | .failed _ _ => some (none, t)

/-- Both fingerprints in one pass, as rule R112 and program P4 of 95_test_vectors.md allow: READ after the first
`min(size, P)` bytes, then on to the end. The oracle does not use it (log entry 16). -/
def onePassWords (p size : Nat) (file : List Byte) : List CommandWord :=
  encode .init ++ encode (.upds (partialBytes p size file)) ++ encode .read
    ++ encode (.upds ((fullBytes size file).drop p)) ++ encode .read

/-- The part of the host's file record that concerns the block (rule R80): the byte count and the "two optional 4-byte
checksums", tagged, "never as a sentinel zero value". -/
structure FileRecord where
  /-- `size`, in bytes. -/
  size : Nat
  /-- `crc_partial`, absent until computed. -/
  crcPartial : Option Word
  /-- `crc_full`, absent until computed. -/
  crcFull : Option Word
deriving DecidableEq, Repr

/-- The host as far as it concerns the block: the block it drives and the number of read failures reported on the error
channel, one for each failed attempt (rule R79). -/
structure HostState where
  /-- The block. -/
  block : State
  /-- Reports of a read failure made so far. -/
  failureReports : Nat
deriving DecidableEq, Repr

/-- Recording a partial fingerprint: on success it is set, and the full one too if `size ≤ P` (rule R86); on failure both
are left as they are (rule R79). -/
def recordPartial (p : Nat) (r : FileRecord) (v : Option Word) : FileRecord :=
  match v with
  | none => r
  | some c => { r with crcPartial := some c, crcFull := if r.size ≤ p then some c else r.crcFull }

/-- Recording a full fingerprint (rules R78, R79). -/
def recordFull (r : FileRecord) (v : Option Word) : FileRecord :=
  match v with
  | none => r
  | some c => { r with crcFull := some c }

/-- A file as the host meets it: what it holds, its record, and how reading it would go for either fingerprint. -/
structure HostFile where
  /-- The bytes of the file, from offset 0. -/
  content : List Byte
  /-- The file's record. -/
  record : FileRecord
  /-- How reading `min(size, P)` bytes goes. -/
  partialRead : FileRead
  /-- How reading `size` bytes goes. -/
  fullRead : FileRead
deriving DecidableEq, Repr

/-- The bytes of the file's partial fingerprint (rule R77). -/
def HostFile.partialData (p : Nat) (f : HostFile) : List Byte := partialBytes p f.record.size f.content

/-- The bytes of the file's full fingerprint (rule R78). -/
def HostFile.fullData (f : HostFile) : List Byte := fullBytes f.record.size f.content

/-- One attempt at a fingerprint: its value if it succeeded, and one report if it failed (rule R79). The last two cases hold
more than a failed reading: a run that gives no checksum although the reading was complete, and a run that is cut because
the block does not answer (`rst` asserted). The spec says nothing of the host's reaction there; that it counts as a failed
attempt with its report, and that a cut run leaves the block as it was before, is the model's choice (log entry 17). -/
def attempt (p : Nat) (h : HostState) (bytes : List Byte) (rd : FileRead) : Option Word × HostState :=
  match fingerprint p h.block bytes rd with
  | some (some v, t) => (some v, { h with block := t })
  | some (none, t) => (none, { block := t, failureReports := h.failureReports + 1 })
  | none => (none, { h with failureReports := h.failureReports + 1 })

/-- "Compute `crc_partial` if absent" (rules R80, R82): the file's record afterwards, and the host. -/
def ensurePartial (p : Nat) (h : HostState) (f : HostFile) : FileRecord × HostState :=
  match f.record.crcPartial with
  | some _ => (f.record, h)
  | none =>
    let (v, h') := attempt p h (f.partialData p) f.partialRead
    (recordPartial p f.record v, h')

/-- "Compute `crc_full` if absent" (rules R80, R82): the file's record afterwards, and the host. -/
def ensureFull (p : Nat) (h : HostState) (f : HostFile) : FileRecord × HostState :=
  match f.record.crcFull with
  | some _ => (f.record, h)
  | none =>
    let (v, h') := attempt p h f.fullData f.fullRead
    (recordFull f.record v, h')

/-- What the oracle comes to before its byte compare, which is outside the spec (00_scope.md rule R4). -/
inductive Verdict where
  /-- "Return true": both files are empty (rule R83). -/
  | equal
  /-- "Return false": a computation failed, or two fingerprints differ (rule R82). -/
  | different
  /-- Both fingerprints are equal: "never ... ends it with equal", the byte compare decides (rule R82). -/
  | compareBytes
deriving DecidableEq, Repr

/-- The verdict of one tier: both fingerprints there and equal, or not (rule R82). -/
def tierEqual (x y : Option Word) : Bool :=
  match x, y with
  | some u, some v => u == v
  | some _, none => false
  | none, some _ => false
  | none, none => false

/-- The oracle `match(a, b)` up to its byte compare (rules R82, R83): the verdict, the two records as it leaves them, and
the host. Both fingerprints of a tier are computed before either is looked at (log entry 12). Of the two ways rule R112 and
programs P4 and P6 allow, the model's choice is two passes: a full fingerprint begins again with INIT (log entry 16). -/
def matchOracle (p : Nat) (h : HostState) (a b : HostFile) : Verdict × FileRecord × FileRecord × HostState :=
  if a.record.size = 0 then (.equal, a.record, b.record, h)
  else
    let (a1, h1) := ensurePartial p h a
    let (b1, h2) := ensurePartial p h1 b
    if tierEqual a1.crcPartial b1.crcPartial then
      let (a2, h3) := ensureFull p h2 { a with record := a1 }
      let (b2, h4) := ensureFull p h3 { b with record := b1 }
      if tierEqual a2.crcFull b2.crcFull then (.compareBytes, a2, b2, h4) else (.different, a2, b2, h4)
    else (.different, a1, b1, h2)

/-- Suspending a computation and resuming it (rule R84): `read` saves `v`; whatever `between` does, `seed v` restores. -/
def suspendResumeWords (v : Word) (between : List CommandWord) : List CommandWord :=
  encode .read ++ between ++ encode (.seed v)

end Sys2Proof.Machine
end

