-- ==== Sys2Proof/Machine/OpcodeMap.lean ====
section
/-! DEFINITION. The opcode map as match and mask over the 36-bit word (30_encoding.md rule R32; the rows of
opcode_table.json), and the illegal words as rule R34 lists them. The decoder (Decode.lean) follows rule R39 instead; that
the three agree is for proof. -/

namespace Sys2Proof.Machine

/-- One row of the match and mask table. -/
structure WordPattern where
  /-- The bits that are compared. -/
  mask : CommandWord
  /-- What they must be. -/
  value : CommandWord
deriving DecidableEq, Repr

/-- "A word `w` selects the row when `w and mask = match`" (rule R32). -/
def selectsRow (p : WordPattern) (w : CommandWord) : Bool := w &&& p.mask == p.value

/-- Row `SEED` (rule R32). -/
def seedPattern : WordPattern := ⟨0xF00000000#36, 0x100000000#36⟩

/-- Row `UPD` (rule R32). -/
def updPattern : WordPattern := ⟨0xFFFFFFF00#36, 0x200000000#36⟩

/-- Row `READ` (rule R32). -/
def readPattern : WordPattern := ⟨0xFFFFFFFFF#36, 0x300000000#36⟩

/-- Row `STAT` (rule R32). -/
def statPattern : WordPattern := ⟨0xFFFFFFFFF#36, 0x400000000#36⟩

/-- Row `CLR` (rule R32). -/
def clrPattern : WordPattern := ⟨0xFFFFFFFFF#36, 0x500000000#36⟩

/-- Row `ILLEGAL.op0` (opcode_table.json). -/
def illegalOp0Pattern : WordPattern := ⟨0xF00000000#36, 0x000000000#36⟩

/-- Row `ILLEGAL.op6_7` (opcode_table.json). -/
def illegalOp67Pattern : WordPattern := ⟨0xE00000000#36, 0x600000000#36⟩

/-- Row `ILLEGAL.op8_F` (opcode_table.json). -/
def illegalOp8FPattern : WordPattern := ⟨0x800000000#36, 0x800000000#36⟩

/-- The five commands' rows, in the order of rule R32. -/
def commandPatterns : List WordPattern := [seedPattern, updPattern, readPattern, statPattern, clrPattern]

/-- The illegal words, clause by clause (rule R34): (a) a reserved opcode, (b) `UPD` with a stray bit, (c) `READ`, `STAT` or
`CLR` with an operand. -/
def illegalWord (w : CommandWord) : Bool :=
  (cwOp w == 0x0#4 || decide (0x6#4 ≤ cwOp w))
    || (cwOp w == 0x2#4 && updReserved (cwArg w) != 0#24)
    || ((cwOp w == 0x3#4 || cwOp w == 0x4#4 || cwOp w == 0x5#4) && cwArg w != 0#32)

end Sys2Proof.Machine
end

