-- ==== Sys2Proof/Machine/Run.lean ====
section
/-! DEFINITION. Several steps (70_reset_and_hazards.md rule R116). The same function as the host interface's
`Host.Core.run` on this machine, written over `step` itself so that claims about runs read in the machine's own types. -/

namespace Sys2Proof.Machine

/-- `k` steps, stopping where a step stops. -/
def runSteps : Nat → State → Host.Outcome State Fault Refusal
  | 0, s => .next s
  | k + 1, s =>
    match step s with
    | .next t => runSteps k t
    | .fault r => .fault r
    | .refused r => .refused r

end Sys2Proof.Machine
end

