-- ==== Sys2Proof/Safety.lean ====
section
/-! DEFINITION. What a safe run of this block is, in the terms claims use: no step stops, every response word is one a
version 1 block can emit, and an accumulator that is valid holds the checksum of the stream it stands for. -/

namespace Sys2Proof.Machine

/-- "The full set of response words the block can emit" (30_encoding.md rule R38): `0x0_<any>`, `0x1_00000000`,
`0x2_00000000`. -/
def emittable (r : ResponseWord) : Bool :=
  rwStatus r == 0x0#4 || r == 0x100000000#36 || r == 0x200000000#36

/-- Every response word waiting in the channel is one the block can emit. -/
abbrev State.ResponsesLegal (s : State) : Prop := ∀ r ∈ s.responses, emittable r = true

/-- The accumulator agrees with a history: unset where there is no stream, else the stream's checksum (rule R11). -/
abbrev State.AccIs (s : State) (h : Option Stream) : Prop := s.acc = h.map streamChecksum

/-- The block between two commands: `rst` released, nothing accepted and unexecuted, nothing emitted and undelivered; what
the synchronous host finds. -/
abbrev State.Idle (s : State) : Prop := s.rst = false ∧ s.commands = [] ∧ s.responses = []

/-- What a file's record holds agrees with what the file holds: a fingerprint that is set is the checksum of its bytes, from
the fresh seed ("functions of file content only", 44_host_sequences.md rule R81). -/
def HostFile.Faithful (p : Nat) (f : HostFile) : Prop :=
  (∀ v : Word, f.record.crcPartial = some v → v = crcUpdate blockConfig freshSeed (f.partialData p))
  ∧ ∀ v : Word, f.record.crcFull = some v → v = crcUpdate blockConfig freshSeed f.fullData

/-- The partial fingerprint is there or can be computed (rule R82: "if absent"). -/
def HostFile.partialReadable (f : HostFile) : Bool := f.record.crcPartial.isSome || f.partialRead.succeeds

/-- The full fingerprint is there, can be computed, or is filled by computing the partial one (rules R82, R86). -/
def HostFile.fullReadable (p : Nat) (f : HostFile) : Bool :=
  f.record.crcFull.isSome || f.fullRead.succeeds
    || (f.record.crcPartial.isNone && f.partialRead.succeeds && decide (f.record.size ≤ p))

end Sys2Proof.Machine
end

