-- ==== Sys2Proof/Certificates/Slice0/Obligations.lean ====
section
/-! DEFINITION. The statements for the provers. A state is written as a record update of an arbitrary `s` wherever a
premise on one field would do, so that few statements need a premise; everything the update does not name is the frame.
Response words are written as 36-bit literals: `0x000000000` is OK with data 0, `0x100000000` is ERR_UNSET, `0x200000000`
is ERR_ILLEGAL (30_encoding.md rule R38). -/

open Sys2Proof Sys2Proof.Machine

/-! ### Decoding and encoding -/

/-- Every word of a well-formed instruction decodes to the single instruction it stands for, in order (rules R32, R37,
R39): itself for a row with an encoding, its expansion for a pseudo-instruction. -/
def Obligations.DecodeOfEncodeIsExpansion : Prop :=
  ∀ i : Instr, WellFormed i → (encode i).map decode = (expand i).map Decoded.instr

/-- A word that decodes to an instruction is that instruction's one word, and the instruction is well-formed and stands for
itself: no two words decode alike and no pseudo-instruction is ever decoded (rules R32, R39, R62, R66). -/
def Obligations.EncodeOfDecodeIsTheWord : Prop :=
  ∀ (w : CommandWord) (i : Instr), decode w = .instr i → WellFormed i ∧ encode i = [w] ∧ expand i = [i]

/-- The decode procedure of rule R39 and the match and mask table of rule R32 (with the illegal rows of opcode_table.json)
select the same words, operand and all. -/
def Obligations.DecodeFollowsMatchAndMask : Prop :=
  ∀ w : CommandWord,
    (selectsRow seedPattern w = true ↔ decode w = .instr (.seed (w.extractLsb' 0 32)))
    ∧ (selectsRow updPattern w = true ↔ decode w = .instr (.upd (w.extractLsb' 0 8)))
    ∧ (selectsRow readPattern w = true ↔ decode w = .instr .read)
    ∧ (selectsRow statPattern w = true ↔ decode w = .instr .stat)
    ∧ (selectsRow clrPattern w = true ↔ decode w = .instr .clr)
    ∧ (selectsRow illegalOp0Pattern w = true ↔ decode w = .instr (.illegalOp0 (w.extractLsb' 0 32)))
    ∧ (selectsRow illegalOp67Pattern w = true
        ↔ decode w = .instr (.illegalOp67 (w.extractLsb' 32 4) (w.extractLsb' 0 32)))
    ∧ (selectsRow illegalOp8FPattern w = true
        ↔ decode w = .instr (.illegalOp8F (w.extractLsb' 32 4) (w.extractLsb' 0 32)))

/-- A word is illegal by the clauses of rule R34 exactly if it selects none of the five command rows (rule R32: "A word that
selects none of them is an illegal command word"), and the five rows are disjoint. -/
def Obligations.IllegalIsNoCommandRow : Prop :=
  ∀ w : CommandWord,
    (illegalWord w = true ↔ ∀ p ∈ commandPatterns, selectsRow p w = false)
    ∧ (∀ p ∈ commandPatterns, ∀ q ∈ commandPatterns, selectsRow p w = true → selectsRow q w = true → p = q)

/-- A few words, written out from rule R32, decode to what they stand for. -/
def Obligations.KnownWordsDecode : Prop :=
  decode 0x19BE3E0A3#36 = .instr (.seed 0x9BE3E0A3#32)
  ∧ decode 0x200000031#36 = .instr (.upd 0x31#8)
  ∧ decode 0x300000000#36 = .instr .read
  ∧ decode 0x400000000#36 = .instr .stat
  ∧ decode 0x500000000#36 = .instr .clr
  ∧ decode 0x012345678#36 = .instr (.illegalOp0 0x12345678#32)
  ∧ decode 0x700000005#36 = .instr (.illegalOp67 0x7#4 0x00000005#32)
  ∧ decode 0xFFFFFFFFF#36 = .instr (.illegalOp8F 0xF#4 0xFFFFFFFF#32)
  ∧ decode 0x200000131#36 = .reject .updReservedBits
  ∧ decode 0x580000000#36 = .reject .clrOperand

/-! ### The commands -/

/-- SEED (rule R60): in every state, valid or not, the accumulator becomes `computed(v)`, the response is OK with data 0, and
nothing else changes; a READ then answers `v` with status OK, zero included, where one on an unset accumulator answers
ERR_UNSET; the bytes absorbed next give `crc_update(v, B)`, and zero bytes change nothing from `0xFFFFFFFF`. Its words are
`0x1 ‖ v`, all of them legal. The clauses on absorbed bytes are about the one instruction UPDS (rule R66), which is the
model's choice (log entry 8). -/
def Obligations.SeedLoadsAccumulator : Prop :=
  (∀ (v : Word) (s : State),
    exec (.seed v) s = .next { s with acc := some v, responses := s.responses ++ [0x000000000#36] }
    ∧ exec .read { s with acc := some v } = .next { s with acc := some v, responses := s.responses ++ [0x0#4 ++ v] }
    ∧ exec .read { s with acc := none } = .next { s with acc := none, responses := s.responses ++ [0x100000000#36] })
  ∧ (∀ (v : Word) (buf : List Byte) (s : State),
    exec (.upds buf) { s with acc := some v }
      = .next { s with acc := some (crcUpdate blockConfig v buf),
                       responses := s.responses ++ List.replicate buf.length 0x000000000#36 })
  ∧ (∀ (n : Nat) (s : State),
    exec (.upds (List.replicate n 0x00#8)) { s with acc := some 0xFFFFFFFF#32 }
      = .next { s with acc := some 0xFFFFFFFF#32, responses := s.responses ++ List.replicate n 0x000000000#36 })
  ∧ ∀ v : Word, encode (.seed v) = [0x1#4 ++ v] ∧ decode (0x1#4 ++ v) = .instr (.seed v)

/-- CLR (rule R61): in every state the accumulator becomes `unset`, the response is OK with data 0, and nothing else changes;
a READ after it answers ERR_UNSET and a STAT 0. Its word is `0x5_00000000` and no other. -/
def Obligations.ClrUnsetsAccumulator : Prop :=
  (∀ s : State,
    exec .clr s = .next { s with acc := none, responses := s.responses ++ [0x000000000#36] }
    ∧ exec .read { s with acc := none } = .next { s with acc := none, responses := s.responses ++ [0x100000000#36] }
    ∧ exec .stat { s with acc := none } = .next { s with acc := none, responses := s.responses ++ [0x000000000#36] })
  ∧ encode .clr = [0x500000000#36]
  ∧ ∀ w : CommandWord, decode w = .instr .clr ↔ w = 0x500000000#36

/-- INIT (rule R62): SEED of zero, in every state; it has no encoding of its own and a decoder seeing its word reports
`SEED(0)`. -/
def Obligations.InitIsSeedOfZero : Prop :=
  (∀ s : State, exec .init s = .next { s with acc := some 0x00000000#32, responses := s.responses ++ [0x000000000#36] })
  ∧ encode .init = [0x100000000#36]
  ∧ decode 0x100000000#36 = .instr (.seed 0x00000000#32)
  ∧ ∀ w : CommandWord, decode w ≠ .instr .init

/-- UPD (rule R65): on a valid accumulator one byte is absorbed by `crc_byte` and the response is OK with data 0; on an unset
one the response is ERR_UNSET and the accumulator stays unset; nothing else changes. Its words are `0x2_000000<b>` and no
others. The rule's corner cases: a zero byte changes every value but `0xFFFFFFFF`; a stray bit absorbs nothing and poisons;
the printed values. -/
def Obligations.UpdAbsorbsOneByte : Prop :=
  (∀ (b : Byte) (s : State) (v : Word),
    exec (.upd b) { s with acc := some v }
      = .next { s with acc := some (crcByte blockConfig v b), responses := s.responses ++ [0x000000000#36] })
  ∧ (∀ (b : Byte) (s : State),
    exec (.upd b) { s with acc := none }
      = .next { s with acc := none, responses := s.responses ++ [0x100000000#36] })
  ∧ (∀ b : Byte, encode (.upd b) = [0x2#4 ++ (0#24 ++ b)])
  ∧ (∀ (w : CommandWord) (b : Byte), decode w = .instr (.upd b) ↔ w = 0x2#4 ++ (0#24 ++ b))
  ∧ (∀ v : Word, crcByte blockConfig v 0x00#8 = v ↔ v = 0xFFFFFFFF#32)
  ∧ (∀ (s : State) (rest : List CommandWord),
    step { s with rst := false, commands := 0x200000131#36 :: rest }
      = .next { s with acc := none, rst := false, commands := rest, responses := s.responses ++ [0x200000000#36] })
  ∧ crcByte blockConfig 0x00000000#32 0x31#8 = 0x83DCEFB7#32
  ∧ crcByte blockConfig 0x00000000#32 0x00#8 = 0xD202EF8D#32
  ∧ crcUpdate blockConfig 0x00000000#32 [0x9D#8, 0x0A#8, 0xD9#8, 0x6D#8] = 0x00000000#32

/-- UPDS (rule R66): the `n` commands UPD in order. From a valid accumulator it ends in `crc_update(c, bs)` with `n` OK
responses; from an unset one each raises its own ERR_UNSET; nothing else changes; splitting it changes nothing; its words
are those of its UPDs, and it has no encoding of its own. That it is one instruction of `n` commands is the model's choice
(log entry 8). -/
def Obligations.UpdsAbsorbsBuffer : Prop :=
  (∀ (bs : List Byte) (s : State) (c : Word),
    exec (.upds bs) { s with acc := some c }
      = .next { s with acc := some (crcUpdate blockConfig c bs),
                       responses := s.responses ++ List.replicate bs.length 0x000000000#36 })
  ∧ (∀ (bs : List Byte) (s : State),
    exec (.upds bs) { s with acc := none }
      = .next { s with acc := none, responses := s.responses ++ List.replicate bs.length 0x100000000#36 })
  ∧ (∀ (as bs : List Byte) (s t : State), exec (.upds as) s = .next t → exec (.upds (as ++ bs)) s = exec (.upds bs) t)
  ∧ (∀ bs : List Byte, encode (.upds bs) = bs.map (fun b => 0x2#4 ++ (0#24 ++ b)))
  ∧ (∀ (w : CommandWord) (bs : List Byte), decode w ≠ .instr (.upds bs))
  ∧ crcUpdate blockConfig 0#32 [0x31#8, 0x32#8, 0x33#8, 0x34#8, 0x35#8, 0x36#8, 0x37#8, 0x38#8, 0x39#8] = 0xCBF43926#32

/-- READ (rule R70): on a valid accumulator the response is OK with the running checksum, and nothing else changes; on an
unset one it is ERR_UNSET with data 0. Its word is `0x3_00000000` and no other. -/
def Obligations.ReadReturnsChecksum : Prop :=
  (∀ (s : State) (v : Word),
    exec .read { s with acc := some v } = .next { s with acc := some v, responses := s.responses ++ [0x0#4 ++ v] }
    ∧ exec .read { s with acc := none } = .next { s with acc := none, responses := s.responses ++ [0x100000000#36] })
  ∧ encode .read = [0x300000000#36]
  ∧ ∀ w : CommandWord, decode w = .instr .read ↔ w = 0x300000000#36

/-- STAT (rule R71): the response is OK with 1 if the accumulator is valid and 0 if not, in every state, and nothing else
changes. Its word is `0x4_00000000` and no other. -/
def Obligations.StatReturnsValid : Prop :=
  (∀ (s : State) (v : Word),
    exec .stat { s with acc := some v }
      = .next { s with acc := some v, responses := s.responses ++ [0x000000001#36] }
    ∧ exec .stat { s with acc := none }
      = .next { s with acc := none, responses := s.responses ++ [0x000000000#36] })
  ∧ encode .stat = [0x400000000#36]
  ∧ ∀ w : CommandWord, decode w = .instr .stat ↔ w = 0x400000000#36

/-- The rows of reserved opcodes (rules R34 a, R92): in every state, whatever the operand, the accumulator becomes unset,
the response is ERR_ILLEGAL with data 0, and nothing else changes. -/
def Obligations.ReservedOpcodesPoison : Prop :=
  ∀ (op : Opcode) (arg : Word) (s : State),
    exec (.illegalOp0 arg) s = .next { s with acc := none, responses := s.responses ++ [0x200000000#36] }
    ∧ exec (.illegalOp67 op arg) s = .next { s with acc := none, responses := s.responses ++ [0x200000000#36] }
    ∧ exec (.illegalOp8F op arg) s = .next { s with acc := none, responses := s.responses ++ [0x200000000#36] }

/-! ### The step, the channels, errors and reset -/

/-- A step runs the decoded instruction: with `rst` released and a word at the head of the command channel that decodes to
`i`, the step is `exec i` with that word consumed (that the channel is a field is the model's choice, log entry 2). -/
def Obligations.StepRunsDecodedInstruction : Prop :=
  ∀ (s : State) (w : CommandWord) (rest : List CommandWord) (i : Instr), decode w = .instr i →
    step { s with rst := false, commands := w :: rest } = exec i { s with rst := false, commands := rest }

/-- With `rst` released and no word in the command channel a step changes nothing: "after the last response it is idle and
ready" (rule R116; that it is a step is the model's choice, log entry 2). -/
def Obligations.IdleStepChangesNothing : Prop :=
  ∀ s : State, step { s with rst := false, commands := [] } = .next { s with rst := false, commands := [] }

/-- Every illegal word (rules R34, R92), in every state of the accumulator: the step consumes it, unsets the accumulator,
answers ERR_ILLEGAL with data 0, and changes nothing else. The all-zero and the all-ones word are illegal. -/
def Obligations.EveryIllegalWordPoisons : Prop :=
  (∀ (s : State) (w : CommandWord) (rest : List CommandWord), illegalWord w = true →
    step { s with rst := false, commands := w :: rest }
      = .next { s with acc := none, rst := false, commands := rest, responses := s.responses ++ [0x200000000#36] })
  ∧ illegalWord 0x000000000#36 = true
  ∧ illegalWord 0xFFFFFFFFF#36 = true

/-- UnsetAccumulator (rule R91): a step on a word answers ERR_UNSET exactly if the accumulator is unset and the word is READ
or a UPD; it then only consumes the word and answers with data 0. -/
def Obligations.UnsetErrorOnlyFromUpdAndRead : Prop :=
  ∀ (s : State) (w : CommandWord) (rest : List CommandWord), ∃ t : State,
    step { s with rst := false, commands := w :: rest } = .next t
    ∧ (t.responses = s.responses ++ [0x100000000#36]
        ↔ s.acc = none ∧ (decode w = .instr .read ∨ ∃ b : Byte, decode w = .instr (.upd b)))
    ∧ (t.responses = s.responses ++ [0x100000000#36]
        → t = { s with rst := false, commands := rest, responses := s.responses ++ [0x100000000#36] })

/-- Which error is reported (rule R95): an illegal word gets ERR_ILLEGAL whatever the accumulator, so on an unset one too,
and never ERR_UNSET; an asserted reset comes before every word: the word is discarded and gets no response. -/
def Obligations.ErrorPriority : Prop :=
  (∀ (s : State) (w : CommandWord) (rest : List CommandWord), illegalWord w = true →
    ∃ t : State, step { s with rst := false, commands := w :: rest } = .next t
      ∧ t.acc = none ∧ t.responses = s.responses ++ [0x200000000#36])
  ∧ ∀ (s : State) (w : CommandWord) (rest : List CommandWord),
    ∃ t : State, step { s with rst := true, commands := w :: rest } = .next t
      ∧ t.acc = none ∧ t.commands = [] ∧ t.responses = []

/-- Error entry (rule R96): the accumulator becomes unset, one response carries the error's code and data 0, and nothing
else changes. -/
def Obligations.ErrorEntryPoisons : Prop :=
  ∀ s : State,
    s.raise .unsetAccumulator = { s with acc := none, responses := s.responses ++ [0x100000000#36] }
    ∧ s.raise .illegalCommand = { s with acc := none, responses := s.responses ++ [0x200000000#36] }

/-- The reset state (rule R106): the accumulator is unset and the status word reads zero. -/
def Obligations.ResetLeavesUnset : Prop :=
  State.reset.acc = none ∧ State.reset.statusWord = 0x00000000#32

/-- Reset (rules R105, R107): in every state with `rst` asserted a step leaves the accumulator unset and both channels empty,
so that whatever was accepted and unanswered gets no response; under `rst` no word is accepted and no response delivered;
the first word accepted after release executes against the reset state. That `rst` and the channels are fields and that one
step is the whole reset is the model's choice (log entries 2, 3). -/
def Obligations.ResetDiscardsEverything : Prop :=
  (∀ (s : State) (w : CommandWord),
    s.assertReset.acceptCommand w = s.assertReset
    ∧ s.assertReset.deliverResponse = none
    ∧ ∃ t : State, step s.assertReset = .next t ∧ t.acc = none ∧ t.commands = [] ∧ t.responses = []
      ∧ step (State.acceptCommand { t with rst := false } w) = step (State.reset.acceptCommand w))
  ∧ State.reset.commands = [] ∧ State.reset.responses = []

/-- "The step function is total" (rules R19, R115): from every state a step answers a next state, and never stops. -/
def Obligations.StepNeverStops : Prop :=
  ∀ s : State, ∃ t : State, step s = .next t

/-- "The block's behaviour is a function of (`ACC`, command word) alone" (rule R19): one function gives, for every word and
every state of both channels, the new accumulator and the response. -/
def Obligations.BehaviourIsFunctionOfAccAndWord : Prop :=
  ∃ f : Option Word → CommandWord → Option Word × ResponseWord,
    ∀ (s : State) (w : CommandWord) (rest : List CommandWord),
      step { s with rst := false, commands := w :: rest }
        = .next { s with acc := (f s.acc w).1, rst := false, commands := rest,
                         responses := s.responses ++ [(f s.acc w).2] }

/-- Exactly one response for each accepted word, in order (rules R27, R31): after as many steps as there were words, those
words are consumed and that many responses stand behind the earlier ones. -/
def Obligations.OneResponsePerCommand : Prop :=
  ∀ (ws rest : List CommandWord) (s : State), ∃ (t : State) (rs : List ResponseWord),
    runSteps ws.length { s with rst := false, commands := ws ++ rest } = .next t
    ∧ rs.length = ws.length ∧ t.rst = false ∧ t.commands = rest ∧ t.responses = s.responses ++ rs

/-- The flag `ACC.VALID` (rule R12), for every word: set by SEED, cleared by CLR and every error, left as it is by UPD, READ
and STAT executed without error; cleared by reset. The `init` and `upds` cases are there for the type only: no word decodes
to them. -/
def Obligations.ValidFlagRule : Prop :=
  (∀ (s : State) (w : CommandWord) (rest : List CommandWord), ∃ t : State,
    step { s with rst := false, commands := w :: rest } = .next t
    ∧ t.valid = match decode w with
      | .instr (.seed _) => true
      | .instr (.upd _) => s.valid
      | .instr .read => s.valid
      | .instr .stat => s.valid
      | .instr .clr => false
      | .instr (.illegalOp0 _) => false
      | .instr (.illegalOp67 _ _) => false
      | .instr (.illegalOp8F _ _) => false
      | .instr .init => true
      | .instr (.upds _) => s.valid
      | .reject _ => false)
  ∧ ∀ s : State, ∃ t : State, step s.assertReset = .next t ∧ t.valid = false

/-- Recovery and nesting (rule R97): behind an illegal word every one of `k` UPDs and a READ answers ERR_UNSET, and the
accumulator stays unset; SEED then recovers, from that as from any state. -/
def Obligations.PoisonedStreamYieldsNoChecksum : Prop :=
  ∀ (s : State) (bad : CommandWord) (bs : List Byte) (v : Word) (rest : List CommandWord), illegalWord bad = true →
    runSteps (bs.length + 3)
        { s with rst := false, commands := bad :: (encode (.upds bs) ++ encode .read ++ encode (.seed v) ++ rest) }
      = .next { s with acc := some v, rst := false, commands := rest,
                       responses := s.responses
                         ++ ([0x200000000#36] ++ List.replicate (bs.length + 1) 0x100000000#36 ++ [0x000000000#36]) }

/-- Every step keeps the response channel to words a version 1 block can emit: status OK with any data, or one of the two
error words (rule R38). -/
def Obligations.ResponsesStayLegal : Prop :=
  ∀ s t : State, s.ResponsesLegal → step s = .next t → t.ResponsesLegal

/-- The invariant of `ResponsesStayLegal` holds at reset. -/
def Obligations.ResetResponsesLegal : Prop := State.reset.ResponsesLegal

/-- The invariant of `ACC.VAL` (rule R11), over any sequence of words from any state that agrees with a history: the
accumulator holds `crc_update(s, B)`, where `s` is the operand of the most recent SEED and `B` the bytes of the UPDs executed
without error since; it is unset where there is no such stream. -/
def Obligations.AccHoldsChecksumOfStream : Prop :=
  ∀ (ws rest : List CommandWord) (s : State) (h : Option Stream), s.AccIs h → ∃ t : State,
    runSteps ws.length { s with rst := false, commands := ws ++ rest } = .next t
    ∧ t.rst = false ∧ t.commands = rest ∧ t.AccIs (trackWords h ws)

/-- Reset agrees with the empty history: there is no stream (rules R11, R16). -/
def Obligations.ResetHasNoStream : Prop := State.reset.AccIs none

/-! ### The function -/

/-- One bit step (rule R45): its two cases, its examples, and that it is linear. -/
def Obligations.BitStepShiftsAndIsLinear : Prop :=
  (∀ r : Word, r.getLsbD 0 = true → stepBit blockConfig r = (r >>> 1) ^^^ 0xEDB88320#32)
  ∧ (∀ r : Word, r.getLsbD 0 = false → stepBit blockConfig r = r >>> 1)
  ∧ (∀ a b : Word, stepBit blockConfig (a ^^^ b) = stepBit blockConfig a ^^^ stepBit blockConfig b)
  ∧ stepBit blockConfig 0x00000000#32 = 0x00000000#32
  ∧ stepBit blockConfig 0x00000001#32 = 0xEDB88320#32
  ∧ stepBit blockConfig 0x00000002#32 = 0x00000001#32
  ∧ stepBit blockConfig 0x80000000#32 = 0x40000000#32
  ∧ stepBit blockConfig 0xFFFFFFFF#32 = 0x92477CDF#32
  ∧ stepBit blockConfig 0xFFFFFFFE#32 = 0x7FFFFFFF#32

/-- One byte in the register domain (rule R46), with the worked example's eight values and the further examples. -/
def Obligations.RegisterByteIsEightBitSteps : Prop :=
  (∀ (r : Word) (b : Byte), rawByte blockConfig r b = (stepBit blockConfig)^[8] (r ^^^ b.setWidth 32))
  ∧ (List.range 9).map (fun n => (stepBit blockConfig)^[n] (0xFFFFFFFF#32 ^^^ 0x00000031#32))
      = [0xFFFFFFCE#32, 0x7FFFFFE7#32, 0xD2477CD3#32, 0x849B3D49#32, 0xAFF51D84#32, 0x57FA8EC2#32, 0x2BFD4761#32,
         0xF8462090#32, 0x7C231048#32]
  ∧ rawByte blockConfig 0xFFFFFFFF#32 0x31#8 = 0x7C231048#32
  ∧ rawByte blockConfig 0#32 0x00#8 = 0x00000000#32
  ∧ rawByte blockConfig 0#32 0x01#8 = 0x77073096#32
  ∧ rawByte blockConfig 0#32 0x80#8 = 0xEDB88320#32
  ∧ rawByte blockConfig 0#32 0xFF#8 = 0x2D02EF8D#32
  ∧ rawByte blockConfig 0xFFFFFFFF#32 0x00#8 = 0x2DFD1072#32
  ∧ rawByte blockConfig 0xFFFFFFFF#32 0xFF#8 = 0x00FFFFFF#32

/-- One byte in the checksum domain (rule R47): both forms of its equation, and the examples. -/
def Obligations.ChecksumByteComplementsInAndOut : Prop :=
  (∀ (c : Word) (b : Byte), crcByte blockConfig c b = rawByte blockConfig (c ^^^ 0xFFFFFFFF#32) b ^^^ 0xFFFFFFFF#32)
  ∧ (∀ (c : Word) (b : Byte), crcByte blockConfig c b = ~~~ (rawByte blockConfig (~~~ c) b))
  ∧ crcByte blockConfig 0x00000000#32 0x31#8 = 0x83DCEFB7#32
  ∧ crcByte blockConfig 0x00000000#32 0x00#8 = 0xD202EF8D#32
  ∧ crcByte blockConfig 0x00000000#32 0xFF#8 = 0xFF000000#32
  ∧ crcByte blockConfig 0x00000000#32 0x61#8 = 0xE8B7BE43#32
  ∧ crcByte blockConfig 0xFFFFFFFF#32 0x00#8 = 0xFFFFFFFF#32
  ∧ crcByte blockConfig 0xFFFFFFFF#32 0xFF#8 = 0xD2FD1072#32
  ∧ crcByte blockConfig 0xDEADBEEF#32 0x61#8 = 0xD8DCEC14#32

/-- The function (rule R48): the fold of `crc_byte` in increasing index; equivalently, for every configuration, the fold of
`raw_byte` between the two exclusive-ors; and the worked example, byte by byte. -/
def Obligations.ChecksumIsFoldInEitherDomain : Prop :=
  (∀ (s : Word) (b : Byte) (buf : List Byte),
    crcUpdate blockConfig s (b :: buf) = crcUpdate blockConfig (crcByte blockConfig s b) buf)
  ∧ (∀ s : Word, crcUpdate blockConfig s [] = s)
  ∧ (∀ (k : Config) (s : Word) (buf : List Byte),
    crcUpdate k s buf = buf.foldl (rawByte k) (s ^^^ k.xorio) ^^^ k.xorio)
  ∧ (List.range 9).map (fun n => crcUpdate blockConfig 0#32
        ([0x31#8, 0x32#8, 0x33#8, 0x34#8, 0x35#8, 0x36#8, 0x37#8, 0x38#8, 0x39#8].take (n + 1)))
      = [0x83DCEFB7#32, 0x4F5344CD#32, 0x884863D2#32, 0x9BE3E0A3#32, 0xCBF53A1C#32, 0x0972D361#32, 0x5003699F#32,
         0x9AE0DAAF#32, 0xCBF43926#32]

/-- The table form (rule R49, marked derived there from R45 and R46): the printed table is `step_bit^8` of its index, and
one byte is one shift and one table entry. -/
def Obligations.TableFormAgrees : Prop :=
  (∀ i : Byte, tableEntry i = (stepBit blockConfig)^[8] (i.setWidth 32))
  ∧ ∀ (r : Word) (b : Byte),
      rawByte blockConfig r b = (r >>> 8) ^^^ tableEntry ((r ^^^ b.setWidth 32).extractLsb' 0 8)

/-- Chaining (rules R41, R51; R50 for no bytes): for every configuration, seed and number of pieces, empty ones too. -/
def Obligations.ChainingForEverySeed : Prop :=
  (∀ (k : Config) (s : Word), crcUpdate k s [] = s)
  ∧ (∀ (k : Config) (s : Word) (a b : List Byte), crcUpdate k (crcUpdate k s a) b = crcUpdate k s (a ++ b))
  ∧ ∀ (k : Config) (s : Word) (pieces : List (List Byte)), pieces.foldl (crcUpdate k) s = crcUpdate k s pieces.flatten

/-- Invertibility (rule R52, marked derived there from R44 and R45; for every `XORIO`): `step_bit` and `unstep_bit` undo each
other; one byte, and any buffer, maps seeds to results bijectively; two bytes never agree on one accumulator; four bytes
are one bijection, so that every value is the fresh checksum of exactly one 4-byte buffer. -/
def Obligations.ChecksumIsInvertible : Prop :=
  (∀ (x r : Word), unstepBit { blockConfig with xorio := x } (stepBit { blockConfig with xorio := x } r) = r
    ∧ stepBit { blockConfig with xorio := x } (unstepBit { blockConfig with xorio := x } r) = r)
  ∧ (∀ (x : Word) (b : Byte), Function.Bijective fun c => crcByte { blockConfig with xorio := x } c b)
  ∧ (∀ (x : Word) (buf : List Byte), Function.Bijective fun s => crcUpdate { blockConfig with xorio := x } s buf)
  ∧ (∀ (x c : Word), Function.Injective (crcByte { blockConfig with xorio := x } c))
  ∧ (∀ (r : Word) (b0 b1 b2 b3 : Byte),
      [b0, b1, b2, b3].foldl (rawByte blockConfig) r = (stepBit blockConfig)^[32] (r ^^^ packBytes b0 b1 b2 b3))
  ∧ (∀ x v : Word, ∃! q : Byte × Byte × Byte × Byte,
      crcUpdate { blockConfig with xorio := x } 0#32 [q.1, q.2.1, q.2.2.1, q.2.2.2] = v)
  ∧ crcUpdate blockConfig 0#32 [0x9D#8, 0x0A#8, 0xD9#8, 0x6D#8] = 0x00000000#32
  ∧ crcUpdate blockConfig 0#32 [0xFF#8, 0xFF#8, 0xFF#8, 0xFF#8] = 0xFFFFFFFF#32

/-- Local differences are always detected (rule R53, marked derived there from R52; for every `XORIO`): two buffers of one
length that differ only within at most four consecutive bytes have different checksums from every seed. -/
def Obligations.LocalDifferencesDetected : Prop :=
  ∀ (x s : Word) (before a b after : List Byte), a.length = b.length → a.length ≤ 4 → a ≠ b →
    crcUpdate { blockConfig with xorio := x } s (before ++ a ++ after)
      ≠ crcUpdate { blockConfig with xorio := x } s (before ++ b ++ after)

/-- Effect of the seed (rule R56, marked derived there; for every `XORIO`): two runs over the same bytes differ by the
stepped difference of their seeds, so (rules R109, R113) a wrong seed never washes out. -/
def Obligations.SeedDifferenceIsStepped : Prop :=
  (∀ (x s1 s2 : Word) (buf : List Byte),
    crcUpdate { blockConfig with xorio := x } s1 buf ^^^ crcUpdate { blockConfig with xorio := x } s2 buf
      = (stepBit blockConfig)^[8 * buf.length] (s1 ^^^ s2))
  ∧ (∀ (s1 s2 : Word) (buf : List Byte), s1 ≠ s2 → crcUpdate blockConfig s1 buf ≠ crcUpdate blockConfig s2 buf)
  ∧ (stepBit blockConfig)^[8] 0xDEADBEEF#32 = 0x306B5257#32

/-- Zero bytes (rule R57, marked derived there): from `0xFFFFFFFF` they change nothing, however many; from the fresh seed
they are seen; without preset and complement one would not be. -/
def Obligations.ZeroBytesAndAllOnesSeed : Prop :=
  (∀ n : Nat, crcUpdate blockConfig 0xFFFFFFFF#32 (List.replicate n 0x00#8) = 0xFFFFFFFF#32)
  ∧ crcUpdate blockConfig 0#32 [0x00#8] = 0xD202EF8D#32
  ∧ crcUpdate blockConfig 0#32 [0x00#8, 0x00#8] = 0x41D912FF#32
  ∧ crcUpdate blockConfig 0#32 [0x00#8, 0x00#8, 0x00#8, 0x00#8] = 0x2144DF1C#32
  ∧ crcUpdate { blockConfig with xorio := 0#32 } 0#32 [0x00#8] = 0#32

/-! ### The host's sequences -/

/-- "The block is correct exactly when the command sequence ... returns `crc_update(s, ...)`" (rules R2, R75): started in any
state, every response is OK, the READ response is `crc_update(s, Buf)`, and that is the accumulator's final value. -/
def Obligations.CallSequenceReturnsChecksum : Prop :=
  ∀ (s : State) (seed : Word) (buf : List Byte) (rest : List CommandWord),
    runSteps (buf.length + 2) { s with rst := false, commands := callWords seed buf ++ rest }
      = .next { s with acc := some (crcUpdate blockConfig seed buf), rst := false, commands := rest,
                       responses := s.responses
                         ++ (List.replicate (buf.length + 1) 0x000000000#36 ++ [0x0#4 ++ crcUpdate blockConfig seed buf]) }

/-- The two ways to checksum a stream in pieces (rule R76): kept in the block, or chained by the host call by call; both
return `crc_update(0, A1 ‖ ... ‖ Ak)`. -/
def Obligations.BothWaysOfStreamingAgree : Prop :=
  ∀ (acc : Option Word) (pieces : List (List Byte)),
    (∃ rs : List ResponseWord,
      converse ⟨acc, false, [], []⟩ (streamWords pieces)
        = some (rs ++ [0x0#4 ++ crcUpdate blockConfig 0#32 pieces.flatten],
                ⟨some (crcUpdate blockConfig 0#32 pieces.flatten), false, [], []⟩))
    ∧ ∃ acc' : Option Word,
      chainCalls ⟨acc, false, [], []⟩ 0#32 pieces
        = some (crcUpdate blockConfig 0#32 pieces.flatten, ⟨acc', false, [], []⟩)

/-- The two fingerprints (rules R77, R78), whatever lengths the successive reads have: the full one is `crc_update(0, File)`;
the partial one is `crc_update(0, File[0 .. min(size, P)))`. Any chunking of the file gives the full one, by form (a) and by
form (b) of rule R76. -/
def Obligations.FingerprintsAreChecksums : Prop :=
  (∀ (acc : Option Word) (p : Nat) (lengths : List Nat) (file : List Byte),
    fingerprint p ⟨acc, false, [], []⟩ (fullBytes file.length file) (.complete lengths)
      = some (some (crcUpdate blockConfig 0#32 file), ⟨some (crcUpdate blockConfig 0#32 file), false, [], []⟩)
    ∧ fingerprint p ⟨acc, false, [], []⟩ (partialBytes p file.length file) (.complete lengths)
      = some (some (crcUpdate blockConfig 0#32 (file.take p)),
              ⟨some (crcUpdate blockConfig 0#32 (file.take p)), false, [], []⟩))
  ∧ ∀ (acc : Option Word) (p : Nat) (chunks : List (List Byte)) (file : List Byte), IsChunking p chunks file →
    (∃ rs : List ResponseWord,
      converse ⟨acc, false, [], []⟩ (streamWords chunks)
        = some (rs ++ [0x0#4 ++ crcUpdate blockConfig 0#32 file],
                ⟨some (crcUpdate blockConfig 0#32 file), false, [], []⟩))
    ∧ ∃ acc' : Option Word,
      chainCalls ⟨acc, false, [], []⟩ 0#32 chunks = some (crcUpdate blockConfig 0#32 file, ⟨acc', false, [], []⟩)

/-- A failed computation (rule R79), of either fingerprint and wherever it fails: no value, the block left unset by CLR, one
report more, and the record untouched. That CLR is issued and that each attempt counts one report is the model's reading
(log entry 11). -/
def Obligations.FailedFingerprintRecordsNothing : Prop :=
  ∀ (acc part full : Option Word) (n p size after : Nat) (lengths : List Nat) (bytes file : List Byte) (other : FileRead),
    fingerprint p ⟨acc, false, [], []⟩ bytes (.failed after lengths) = some (none, ⟨none, false, [], []⟩)
    ∧ ensurePartial p ⟨⟨acc, false, [], []⟩, n⟩ ⟨file, ⟨size, none, full⟩, .failed after lengths, other⟩
        = (⟨size, none, full⟩, ⟨⟨none, false, [], []⟩, n + 1⟩)
    ∧ ensureFull p ⟨⟨acc, false, [], []⟩, n⟩ ⟨file, ⟨size, part, none⟩, other, .failed after lengths⟩
        = (⟨size, part, none⟩, ⟨⟨none, false, [], []⟩, n + 1⟩)

/-- The short-file rule (rule R86): computing the partial fingerprint of a file of at most `P` bytes sets both to the
checksum of the file; of a longer file it sets the partial one alone. -/
def Obligations.ShortFileFillsBoth : Prop :=
  ∀ (acc full : Option Word) (n p : Nat) (file : List Byte) (lengths : List Nat) (other : FileRead),
    (ensurePartial p ⟨⟨acc, false, [], []⟩, n⟩ ⟨file, ⟨file.length, none, full⟩, .complete lengths, other⟩).1
      = if file.length ≤ p
        then ⟨file.length, some (crcUpdate blockConfig 0#32 file), some (crcUpdate blockConfig 0#32 file)⟩
        else ⟨file.length, some (crcUpdate blockConfig 0#32 (file.take p)), full⟩

/-- Caching (rule R80): a fingerprint that is there is not computed again, and the block is not used. -/
def Obligations.CachedFingerprintIsKept : Prop :=
  ∀ (h : HostState) (p size : Nat) (v : Word) (other : Option Word) (f : HostFile),
    ensurePartial p h { f with record := ⟨size, some v, other⟩ } = (⟨size, some v, other⟩, h)
    ∧ ensureFull p h { f with record := ⟨size, other, some v⟩ } = (⟨size, other, some v⟩, h)

/-- The oracle on an empty file (rule R83): true at once, the block not used. -/
def Obligations.EmptyFilesAreEqual : Prop :=
  ∀ (p : Nat) (h : HostState) (a b : HostFile), a.record.size = 0 →
    matchOracle p h a b = (.equal, a.record, b.record, h)

/-- The oracle never separates equal files (rule R82 with R40): two files of the same non-empty content, each fingerprint
either there already (and then faithful) or read without failure, in whatever chunks, come to the byte compare. -/
def Obligations.OracleNeverSeparatesEqualFiles : Prop :=
  ∀ (acc : Option Word) (n p : Nat) (a b : HostFile),
    a.content = b.content → a.content ≠ [] → a.record.size = a.content.length → b.record.size = b.content.length →
    a.Faithful p → b.Faithful p → a.partialReadable = true → b.partialReadable = true →
    a.fullReadable p = true → b.fullReadable p = true →
    (matchOracle p ⟨⟨acc, false, [], []⟩, n⟩ a b).1 = .compareBytes

/-- Suspend and resume (rule R84): READ gives the value, and after any words in between SEED of it restores the computation:
the accumulator is as it was. -/
def Obligations.SuspendResumeRestores : Prop :=
  ∀ (s : State) (v : Word) (between rest : List CommandWord), ∃ (t : State) (rs : List ResponseWord),
    runSteps (between.length + 2)
        { s with acc := some v, rst := false, commands := suspendResumeWords v between ++ rest } = .next t
    ∧ t.acc = some v ∧ t.rst = false ∧ t.commands = rest
    ∧ rs.length = between.length + 1 ∧ t.responses = s.responses ++ ((0x0#4 ++ v) :: rs)

/-! ### The assembler -/

/-- Ranges (rule R36): the word of each line, or the line is refused. -/
def Obligations.AssemblerChecksRanges : Prop :=
  ∀ n : Nat,
    (n ≤ 0xFFFFFFFF → assembleLine (.seed n) = some [0x1#4 ++ BitVec.ofNat 32 n])
    ∧ (0xFFFFFFFF < n → assembleLine (.seed n) = none)
    ∧ (n ≤ 0xFF → assembleLine (.upd n) = some [0x2#4 ++ BitVec.ofNat 32 n])
    ∧ (0xFF < n → assembleLine (.upd n) = none)
    ∧ assembleLine .read = some [0x300000000#36]
    ∧ assembleLine .stat = some [0x400000000#36]
    ∧ assembleLine .clr = some [0x500000000#36]

/-- "The assembler can emit only legal words" (rule R36): whatever line but `.word` it accepts. -/
def Obligations.AssemblerEmitsOnlyLegalWords : Prop :=
  ∀ (l : AsmLine) (ws : List CommandWord), assembleLine l = some ws → (∀ n : Nat, l ≠ .word n) →
    ∀ w ∈ ws, illegalWord w = false

/-- The pseudo-instructions (rule R37): `init` is `seed 0`; `upds` is its `upd`s, line by line, refused if one is, and nothing
without operands; a text is the `upds` of its ASCII codes; the source's call is `seed s; upds Buf; read`. -/
def Obligations.PseudoInstructionsExpand : Prop :=
  assembleLine .init = assembleLine (.seed 0)
  ∧ (∀ ns : List Nat, assembleLine (.upds ns) = assembleLines (ns.map .upd))
  ∧ assembleLine (.upds []) = some []
  ∧ (∀ cs : List Char, (∀ c ∈ cs, c.toNat ≤ 0x7F) → assembleLine (.updsText cs) = assembleLine (.upds (cs.map Char.toNat)))
  ∧ ∀ (s : Word) (buf : List Byte),
    assembleLines [.seed s.toNat, .upds (buf.map BitVec.toNat), .read] = some (callWords s buf)

/-! ### The host's fingerprints and the oracle, further -/

/-- Computing an absent full fingerprint (rules R78, R82): it becomes `crc_update(0, File)`, the partial one is kept, and
nothing is reported. -/
def Obligations.FullFingerprintIsRecorded : Prop :=
  ∀ (acc part : Option Word) (n p : Nat) (file : List Byte) (lengths : List Nat) (other : FileRead),
    ensureFull p ⟨⟨acc, false, [], []⟩, n⟩ ⟨file, ⟨file.length, part, none⟩, other, .complete lengths⟩
      = (⟨file.length, part, some (crcUpdate blockConfig 0#32 file)⟩,
         ⟨⟨some (crcUpdate blockConfig 0#32 file), false, [], []⟩, n⟩)

/-- What the oracle decides by (rule R82), for files that are not empty and whose records are faithful: it comes to the byte
compare exactly if all four fingerprints are there or can be computed and agree in each tier; a failed computation or two
unequal fingerprints give "different". -/
def Obligations.OracleDecidesByFingerprints : Prop :=
  ∀ (acc : Option Word) (n p : Nat) (a b : HostFile), a.record.size ≠ 0 → a.Faithful p → b.Faithful p →
    (matchOracle p ⟨⟨acc, false, [], []⟩, n⟩ a b).1
      = if a.partialReadable = true ∧ b.partialReadable = true
            ∧ crcUpdate blockConfig 0#32 (a.partialData p) = crcUpdate blockConfig 0#32 (b.partialData p)
            ∧ a.fullReadable p = true ∧ b.fullReadable p = true
            ∧ crcUpdate blockConfig 0#32 a.fullData = crcUpdate blockConfig 0#32 b.fullData
        then .compareBytes else .different

/-- Reproducibility (rule R81): whatever the block was left with and however the files are read, records that are functions
of file content stay so through either computation and through the oracle, and the block is idle afterwards. -/
def Obligations.RecordsStayFaithful : Prop :=
  ∀ (acc : Option Word) (n p : Nat) (a b : HostFile), a.Faithful p → b.Faithful p →
    (HostFile.Faithful p { a with record := (ensurePartial p ⟨⟨acc, false, [], []⟩, n⟩ a).1 }
      ∧ (ensurePartial p ⟨⟨acc, false, [], []⟩, n⟩ a).2.block.Idle)
    ∧ (HostFile.Faithful p { a with record := (ensureFull p ⟨⟨acc, false, [], []⟩, n⟩ a).1 }
      ∧ (ensureFull p ⟨⟨acc, false, [], []⟩, n⟩ a).2.block.Idle)
    ∧ HostFile.Faithful p { a with record := (matchOracle p ⟨⟨acc, false, [], []⟩, n⟩ a b).2.1 }
    ∧ HostFile.Faithful p { b with record := (matchOracle p ⟨⟨acc, false, [], []⟩, n⟩ a b).2.2.1 }
    ∧ (matchOracle p ⟨⟨acc, false, [], []⟩, n⟩ a b).2.2.2.block.Idle

/-- The host's share of reproducibility (rules R78, R81): its reads give the bytes in order, each once, in chunks of at most
`P`, and every such chunking can occur; a computation's commands are the fresh seed, one UPD for each byte in order, READ,
and nothing else. -/
def Obligations.HostReadsInOrderAndMixesNothingIn : Prop :=
  (∀ (p : Nat) (lengths : List Nat) (bytes : List Byte), 0 < p → IsChunking p (chunksOf p lengths bytes) bytes)
  ∧ (∀ (p : Nat) (chunks : List (List Byte)), (∀ c ∈ chunks, c ≠ [] ∧ c.length ≤ p) →
      chunksOf p (chunks.map List.length) chunks.flatten = chunks)
  ∧ ∀ (p : Nat) (lengths : List Nat) (bytes : List Byte),
    fingerprintWords p bytes (.complete lengths)
      = [0x100000000#36] ++ bytes.map (fun b => 0x2#4 ++ (0#24 ++ b)) ++ [0x300000000#36]

/-- Both fingerprints in one pass (rule R112 with R77, R78): the READ after the first `P` bytes answers the partial one and
does not disturb the computation; the READ at the end answers the full one. -/
def Obligations.OnePassGivesBothFingerprints : Prop :=
  ∀ (acc : Option Word) (p : Nat) (file : List Byte),
    converse ⟨acc, false, [], []⟩ (onePassWords p file.length file)
      = some (List.replicate (min file.length p + 1) 0x000000000#36
                ++ [0x0#4 ++ crcUpdate blockConfig 0#32 (file.take p)]
                ++ List.replicate (file.length - p) 0x000000000#36 ++ [0x0#4 ++ crcUpdate blockConfig 0#32 file],
              ⟨some (crcUpdate blockConfig 0#32 file), false, [], []⟩)
end

