-- ==== Sys2Proof/Laws/Crc.lean ====
section
/-! SUPPORT. How the checksum function takes a buffer apart (40_crc_function.md rule R48), and the bits of one step. -/

namespace Sys2Proof.Machine

@[simp] theorem crcUpdate_nil (k : Config) (s : Word) : crcUpdate k s [] = s := rfl

@[simp] theorem crcUpdate_cons (k : Config) (s : Word) (b : Byte) (buf : List Byte) :
    crcUpdate k s (b :: buf) = crcUpdate k (crcByte k s b) buf := rfl

/-- One byte at the end of the buffer. -/
theorem crcUpdate_snoc (k : Config) (s : Word) (buf : List Byte) (b : Byte) :
    crcUpdate k s (buf ++ [b]) = crcByte k (crcUpdate k s buf) b := by
  simp [crcUpdate]

/-- `XORIO` does not enter the bit step. -/
theorem stepBit_xorio (k : Config) (x : Word) : stepBit { k with xorio := x } = stepBit k := rfl

/-- `XORIO` does not enter the byte step of the register domain. -/
theorem rawByte_xorio (k : Config) (x : Word) : rawByte { k with xorio := x } = rawByte k := rfl

/-- The right-shifting step as one expression: the shifted register, and the polynomial where bit 0 was 1. -/
theorem stepBit_block (r : Word) :
    stepBit blockConfig r = (r >>> 1) ^^^ (if r.getLsbD 0 then 0xEDB88320#32 else 0#32) := by
  simp only [stepBit, blockConfig, ↓reduceIte]
  split <;> simp

end Sys2Proof.Machine
end

