-- ==== Sys2Proof/Laws/State.lean ====
section
/-! SUPPORT. One lemma per field per update, so that no proof unfolds a record update; and the updates as one record each. -/

namespace Sys2Proof.Machine

@[simp] theorem reset_acc : State.reset.acc = none := rfl
@[simp] theorem reset_rst : State.reset.rst = false := rfl
@[simp] theorem reset_commands : State.reset.commands = [] := rfl
@[simp] theorem reset_responses : State.reset.responses = [] := rfl

@[simp] theorem setAcc_acc (s : State) (v : Word) : (s.setAcc v).acc = some v := rfl
@[simp] theorem setAcc_rst (s : State) (v : Word) : (s.setAcc v).rst = s.rst := rfl
@[simp] theorem setAcc_commands (s : State) (v : Word) : (s.setAcc v).commands = s.commands := rfl
@[simp] theorem setAcc_responses (s : State) (v : Word) : (s.setAcc v).responses = s.responses := rfl

@[simp] theorem clearAcc_acc (s : State) : s.clearAcc.acc = none := rfl
@[simp] theorem clearAcc_rst (s : State) : s.clearAcc.rst = s.rst := rfl
@[simp] theorem clearAcc_commands (s : State) : s.clearAcc.commands = s.commands := rfl
@[simp] theorem clearAcc_responses (s : State) : s.clearAcc.responses = s.responses := rfl

@[simp] theorem respond_acc (s : State) (st : Status) (d : Word) : (s.respond st d).acc = s.acc := rfl
@[simp] theorem respond_rst (s : State) (st : Status) (d : Word) : (s.respond st d).rst = s.rst := rfl
@[simp] theorem respond_commands (s : State) (st : Status) (d : Word) : (s.respond st d).commands = s.commands := rfl
@[simp] theorem respond_responses (s : State) (st : Status) (d : Word) :
    (s.respond st d).responses = s.responses ++ [mkResponse (statusCode st) d] := rfl

@[simp] theorem raise_acc (s : State) (e : Error) : (s.raise e).acc = none := rfl
@[simp] theorem raise_rst (s : State) (e : Error) : (s.raise e).rst = s.rst := rfl
@[simp] theorem raise_commands (s : State) (e : Error) : (s.raise e).commands = s.commands := rfl
@[simp] theorem raise_responses (s : State) (e : Error) :
    (s.raise e).responses = s.responses ++ [mkResponse (statusCode (errorStatus e)) 0x00000000#32] := rfl

@[simp] theorem loadSeed_acc (s : State) (v : Word) : (s.loadSeed v).acc = some v := rfl
@[simp] theorem loadSeed_rst (s : State) (v : Word) : (s.loadSeed v).rst = s.rst := rfl
@[simp] theorem loadSeed_commands (s : State) (v : Word) : (s.loadSeed v).commands = s.commands := rfl
@[simp] theorem loadSeed_responses (s : State) (v : Word) :
    (s.loadSeed v).responses = s.responses ++ [0x000000000#36] := rfl

@[simp] theorem assertReset_acc (s : State) : s.assertReset.acc = s.acc := rfl
@[simp] theorem assertReset_rst (s : State) : s.assertReset.rst = true := rfl
@[simp] theorem assertReset_commands (s : State) : s.assertReset.commands = s.commands := rfl
@[simp] theorem assertReset_responses (s : State) : s.assertReset.responses = s.responses := rfl

@[simp] theorem takeReset_eq (s : State) : s.takeReset = State.reset := rfl

@[simp] theorem valid_some (s : State) (v : Word) (h : s.acc = some v) : s.valid = true := by simp [State.valid, h]
@[simp] theorem valid_none (s : State) (h : s.acc = none) : s.valid = false := by simp [State.valid, h]

/-- The status word of a valid accumulator (rule R15). -/
theorem statusWord_of_some {s : State} {v : Word} (h : s.acc = some v) : s.statusWord = 0x00000001#32 := by
  simp [State.statusWord, State.valid, h, zextFlag]

/-- The status word of an unset accumulator (rule R15). -/
theorem statusWord_of_none {s : State} (h : s.acc = none) : s.statusWord = 0x00000000#32 := by
  simp [State.statusWord, State.valid, h, zextFlag]

/-- The word of STAT's answer on a valid accumulator (rule R71). -/
@[simp] theorem mkResponse_ok_one : mkResponse (statusCode .ok) 0x00000001#32 = 0x000000001#36 := rfl
/-- The word of an OK response with data 0 (rule R38). -/
@[simp] theorem mkResponse_ok_zero : mkResponse (statusCode .ok) 0x00000000#32 = 0x000000000#36 := rfl
/-- The word of ERR_UNSET (rule R38). -/
@[simp] theorem mkResponse_errUnset : mkResponse (statusCode .errUnset) 0x00000000#32 = 0x100000000#36 := rfl
/-- The word of ERR_ILLEGAL (rule R38). -/
@[simp] theorem mkResponse_errIllegal : mkResponse (statusCode .errIllegal) 0x00000000#32 = 0x200000000#36 := rfl

end Sys2Proof.Machine
end

