-- ==== Sys2Proof/Laws/Ops.lean ====
section
/-! SUPPORT. What each shared operation can do, said once; later proofs cite these and unfold no operation. -/

namespace Sys2Proof.Machine

/-- `withAcc` either raises `UnsetAccumulator` or goes on with the value (rule R91). -/
theorem withAcc_cases (s : State) (go : Word → State) :
    (s.acc = none ∧ s.withAcc go = s.raise .unsetAccumulator) ∨ ∃ v, s.acc = some v ∧ s.withAcc go = go v := by
  unfold State.withAcc
  cases h : s.acc with
  | none => exact .inl ⟨rfl, rfl⟩
  | some v => exact .inr ⟨v, rfl, rfl⟩

theorem withAcc_of_none {s : State} (h : s.acc = none) (go : Word → State) :
    s.withAcc go = s.raise .unsetAccumulator := by simp [State.withAcc, h]

theorem withAcc_of_some {s : State} {v : Word} (h : s.acc = some v) (go : Word → State) : s.withAcc go = go v := by
  simp [State.withAcc, h]

/-- `absorb` on a valid accumulator (rule R65). -/
theorem absorb_of_some {s : State} {v : Word} (h : s.acc = some v) (b : Byte) :
    s.absorb b = (s.setAcc (crcByte blockConfig v b)).respond .ok 0x00000000#32 := withAcc_of_some h _

/-- `absorb` on an unset accumulator (rule R91): the byte is lost. -/
theorem absorb_of_none {s : State} (h : s.acc = none) (b : Byte) : s.absorb b = s.raise .unsetAccumulator :=
  withAcc_of_none h _

/-- What `absorb` can do: it always answers one response and touches neither `rst` nor the command channel. -/
theorem absorb_cases (s : State) (b : Byte) :
    (s.acc = none ∧ s.absorb b = s.raise .unsetAccumulator)
    ∨ ∃ v, s.acc = some v ∧ s.absorb b = (s.setAcc (crcByte blockConfig v b)).respond .ok 0x00000000#32 :=
  withAcc_cases s _

@[simp] theorem absorb_rst (s : State) (b : Byte) : (s.absorb b).rst = s.rst := by
  obtain ⟨-, h⟩ | ⟨v, -, h⟩ := absorb_cases s b <;> simp [h]

@[simp] theorem absorb_commands (s : State) (b : Byte) : (s.absorb b).commands = s.commands := by
  obtain ⟨-, h⟩ | ⟨v, -, h⟩ := absorb_cases s b <;> simp [h]

/-- `raise` as one record (rule R96). -/
theorem raise_eq (s : State) (e : Error) :
    s.raise e = { s with acc := none,
                         responses := s.responses ++ [mkResponse (statusCode (errorStatus e)) 0x00000000#32] } := rfl

/-- The next command is the head of the channel, and taking it changes nothing else. -/
theorem nextCommand_eq_some {s t : State} {w : CommandWord} (h : s.nextCommand = some (w, t)) :
    s.commands = w :: t.commands ∧ t = { s with commands := t.commands } := by
  unfold State.nextCommand at h
  split at h
  · cases h
  · next c rest hc => cases h; exact ⟨hc, rfl⟩

theorem nextCommand_eq_none {s : State} : s.nextCommand = none ↔ s.commands = [] := by
  unfold State.nextCommand
  split <;> simp_all

@[simp] theorem nextCommand_cons (s : State) (w : CommandWord) (rest : List CommandWord) :
    State.nextCommand { s with commands := w :: rest } = some (w, { s with commands := rest }) := rfl

@[simp] theorem nextCommand_nil (s : State) : State.nextCommand { s with commands := [] } = none := rfl

/-- Presenting a word outside reset puts it last (rules R27, R118). -/
theorem acceptCommand_of_released {s : State} (h : s.rst = false) (w : CommandWord) :
    s.acceptCommand w = { s with commands := s.commands ++ [w] } := by simp [State.acceptCommand, h]

/-- Presenting a word under reset does nothing (rule R105). -/
theorem acceptCommand_of_asserted {s : State} (h : s.rst = true) (w : CommandWord) : s.acceptCommand w = s := by
  simp [State.acceptCommand, h]

/-- A delivery takes the oldest response and changes nothing else (rules R27, R118). -/
theorem deliverResponse_eq_some {s t : State} {r : ResponseWord} (h : s.deliverResponse = some (r, t)) :
    s.rst = false ∧ s.responses = r :: t.responses ∧ t = { s with responses := t.responses } := by
  unfold State.deliverResponse at h
  split at h
  · cases h
  · next hr =>
    split at h
    · cases h
    · next c rest hc => cases h; exact ⟨by simpa using hr, hc, rfl⟩

@[simp] theorem deliverResponse_cons (a : Option Word) (ws rs : List (BitVec 36)) (r : ResponseWord) :
    State.deliverResponse ⟨a, false, ws, r :: rs⟩ = some (r, ⟨a, false, ws, rs⟩) := rfl

end Sys2Proof.Machine
end

