-- ==== Sys2Proof/Laws/Step.lean ====
section
/-! SUPPORT. What a step can be: the reset, nothing, the meaning of a decoded instruction, or the error entry of a rejected
word; and that every meaning answers a next state. -/

namespace Sys2Proof.Machine

/-- A rejected word only raises `IllegalCommand`, for each reason (rule R92). -/
theorem execRejected_eq (why : Rejection) (s : State) : execRejected why s = .next (s.raise .illegalCommand) := by
  cases why <;> rfl

theorem step_of_rst {s : State} (h : s.rst = true) : step s = .next State.reset := by simp [step, h]

theorem step_of_idle {s : State} (hr : s.rst = false) (hc : s.commands = []) : step s = .next s := by
  simp [step, hr, nextCommand_eq_none.2 hc]

/-- The step on a word whose decoding is known. -/
theorem step_cons (s : State) (w : CommandWord) (rest : List CommandWord) :
    step { s with rst := false, commands := w :: rest }
      = match decode w with
        | .instr i => exec i { s with rst := false, commands := rest }
        | .reject _ => .next (State.raise { s with rst := false, commands := rest } .illegalCommand) := by
  cases h : decode w <;> simp [step, State.nextCommand, h, execRejected_eq]

/-- Every meaning ends in a next state. -/
theorem exec_is_next (i : Instr) (s : State) : ∃ t, exec i s = .next t := by
  cases i <;> exact ⟨_, rfl⟩

/-- What a step can be, case by case. -/
theorem step_cases (s : State) :
    (s.rst = true ∧ step s = .next State.reset)
    ∨ (s.rst = false ∧ s.commands = [] ∧ step s = .next s)
    ∨ (∃ w rest i, s.rst = false ∧ s.commands = w :: rest ∧ decode w = .instr i
        ∧ step s = exec i { s with commands := rest })
    ∨ (∃ w rest why, s.rst = false ∧ s.commands = w :: rest ∧ decode w = .reject why
        ∧ step s = .next (State.raise { s with commands := rest } .illegalCommand)) := by
  obtain ⟨acc, rst, commands, responses⟩ := s
  cases rst with
  | true => exact .inl ⟨rfl, rfl⟩
  | false =>
    cases commands with
    | nil => exact .inr (.inl ⟨rfl, rfl, rfl⟩)
    | cons w rest =>
      cases h : decode w with
      | instr i => exact .inr (.inr (.inl ⟨w, rest, i, rfl, rfl, h, by simp [step, State.nextCommand, h]⟩))
      | reject why =>
        exact .inr (.inr (.inr ⟨w, rest, why, rfl, rfl, h, by simp [step, State.nextCommand, h, execRejected_eq]⟩))

/-- One more step at the front of a run. -/
theorem runSteps_succ (k : Nat) {s t : State} (h : step s = .next t) : runSteps (k + 1) s = runSteps k t := by
  rw [runSteps, h]

/-- Two runs one after the other. -/
theorem runSteps_add (j k : Nat) {s t : State} (h : runSteps j s = .next t) : runSteps (j + k) s = runSteps k t := by
  induction j generalizing s with
  | zero =>
    have h0 : s = t := by simpa [runSteps] using h
    rw [h0, Nat.zero_add]
  | succ j ih =>
    rw [Nat.add_right_comm, runSteps]
    rw [runSteps] at h
    cases hs : step s with
    | next u => rw [hs] at h; exact ih h
    | fault r => rw [hs] at h; cases h
    | refused r => rw [hs] at h; cases h

/-- `runSteps` is the host interface's run of this machine. -/
theorem runSteps_eq_run (k : Nat) (s : State) : runSteps k s = Host.Core.run Sys2Proof.core k s := by
  induction k generalizing s with
  | zero => rfl
  | succ k ih =>
    cases hs : step s with
    | next t =>
      have hc : Sys2Proof.core.step s = .next t := hs
      rw [runSteps, hs]
      simp only [Host.Core.run, hc]
      exact ih t
    | fault r => cases r
    | refused r =>
      have hc : Sys2Proof.core.step s = .refused r := hs
      rw [runSteps, hs]
      simp only [Host.Core.run, hc]
      rfl

end Sys2Proof.Machine
end

