-- ==== Sys2Proof/Laws/Host.lean ====
section
/-! SUPPORT. What the host's exchanges with the block do, said once (44_host_sequences.md), and the small lemmas of recording
a fingerprint. -/

namespace Sys2Proof.Machine

/-- On the idle block every word gets its one response, and the block is idle again. -/
theorem transact_idle (acc : Option Word) (w : CommandWord) :
    ∃ (r : ResponseWord) (acc' : Option Word),
      transact ⟨acc, false, [], []⟩ w = some (r, ⟨acc', false, [], []⟩) := by
  unfold transact
  rw [show State.acceptCommand ⟨acc, false, [], []⟩ w = ⟨acc, false, [w], []⟩ from rfl,
    step_cons ⟨acc, false, [w], []⟩ w []]
  cases hd : decode w with
  | reject why => exact ⟨_, _, rfl⟩
  | instr i =>
    cases i with
    | upd b => cases acc <;> exact ⟨_, _, rfl⟩
    | read => cases acc <;> exact ⟨_, _, rfl⟩
    | upds bs =>
      exfalso
      revert hd
      unfold decode
      simp only
      repeat' split
      all_goals simp
    | _ => exact ⟨_, _, rfl⟩

/-- A run of the synchronous host on the idle block always completes, one response for each word. -/
theorem converse_idle (acc : Option Word) (ws : List CommandWord) :
    ∃ (rs : List ResponseWord) (acc' : Option Word),
      converse ⟨acc, false, [], []⟩ ws = some (rs, ⟨acc', false, [], []⟩) ∧ rs.length = ws.length := by
  induction ws generalizing acc with
  | nil => exact ⟨[], acc, rfl, rfl⟩
  | cons w ws ih =>
    obtain ⟨r, acc1, h⟩ := transact_idle acc w
    obtain ⟨rs, acc2, hrs, hl⟩ := ih acc1
    exact ⟨r :: rs, acc2, by simp only [converse, h, hrs], by simp [hl]⟩

/-- A run over two sequences is the run over the first and then over the second. -/
theorem converse_append {s t u : State} {ws vs : List CommandWord} {rs qs : List ResponseWord}
    (h : converse s ws = some (rs, t)) (h' : converse t vs = some (qs, u)) :
    converse s (ws ++ vs) = some (rs ++ qs, u) := by
  induction ws generalizing s rs with
  | nil =>
    cases h
    exact h'
  | cons w ws ih =>
    cases ht : transact s w with
    | none => simp [converse, ht] at h
    | some q =>
      cases hc : converse q.2 ws with
      | none => simp [converse, ht, hc] at h
      | some q' =>
        simp only [converse, ht, hc, Option.some.injEq, Prod.mk.injEq] at h
        obtain ⟨rfl, rfl⟩ := h
        simp only [List.cons_append, converse, ht, ih hc]

@[simp] theorem recordPartial_none (p : Nat) (r : FileRecord) : recordPartial p r none = r := rfl

@[simp] theorem recordPartial_some_size (p : Nat) (r : FileRecord) (v : Word) :
    (recordPartial p r (some v)).size = r.size := rfl

@[simp] theorem recordPartial_some_crcPartial (p : Nat) (r : FileRecord) (v : Word) :
    (recordPartial p r (some v)).crcPartial = some v := rfl

@[simp] theorem recordPartial_some_crcFull (p : Nat) (r : FileRecord) (v : Word) :
    (recordPartial p r (some v)).crcFull = if r.size ≤ p then some v else r.crcFull := rfl

@[simp] theorem recordFull_none (r : FileRecord) : recordFull r none = r := rfl

@[simp] theorem recordFull_some_size (r : FileRecord) (v : Word) : (recordFull r (some v)).size = r.size := rfl

@[simp] theorem recordFull_some_crcPartial (r : FileRecord) (v : Word) :
    (recordFull r (some v)).crcPartial = r.crcPartial := rfl

@[simp] theorem recordFull_some_crcFull (r : FileRecord) (v : Word) : (recordFull r (some v)).crcFull = some v := rfl

/-- Where `size ≤ P` both fingerprints are of the same bytes (rule R86). -/
theorem partialData_eq_fullData {p : Nat} {f : HostFile} (h : f.record.size ≤ p) : f.partialData p = f.fullData := by
  unfold HostFile.partialData HostFile.fullData partialBytes fullBytes
  rw [Nat.min_eq_left h]

end Sys2Proof.Machine
end

