-- ==== Sys2Proof/Laws/Words.lean ====
section
/-! SUPPORT. The two 36-bit words and their fields: what is put together reads back, and every word is put together from
its fields (30_encoding.md rules R30, R31). -/

namespace Sys2Proof.Machine

@[simp] theorem cwOp_mkCommand (op : Opcode) (arg : Word) : cwOp (mkCommand op arg) = op := by
  unfold cwOp mkCommand
  ext i hi
  simp only [BitVec.getElem_extractLsb', BitVec.getLsbD_append]
  simp [BitVec.getLsbD_eq_getElem hi]

@[simp] theorem cwArg_mkCommand (op : Opcode) (arg : Word) : cwArg (mkCommand op arg) = arg := by
  unfold cwArg mkCommand
  ext i hi
  simp only [BitVec.getElem_extractLsb', BitVec.getLsbD_append]
  simp [hi, BitVec.getLsbD_eq_getElem]

theorem mkCommand_fields (w : CommandWord) : mkCommand (cwOp w) (cwArg w) = w := by
  unfold mkCommand cwOp cwArg
  ext i hi
  simp only [BitVec.getElem_append, BitVec.getElem_extractLsb']
  split
  · simp [BitVec.getLsbD_eq_getElem hi]
  · have h : 32 + (i - 32) = i := by omega
    simp [h, BitVec.getLsbD_eq_getElem hi]

@[simp] theorem rwStatus_mkResponse (st : BitVec 4) (d : Word) : rwStatus (mkResponse st d) = st :=
  cwOp_mkCommand st d

@[simp] theorem rwData_mkResponse (st : BitVec 4) (d : Word) : rwData (mkResponse st d) = d :=
  cwArg_mkCommand st d

theorem mkResponse_fields (r : ResponseWord) : mkResponse (rwStatus r) (rwData r) = r := mkCommand_fields r

@[simp] theorem byteOperand_zextByte (b : Byte) : byteOperand (zextByte b) = b := by
  unfold byteOperand zextByte
  ext i hi
  have h32 : i < 32 := by omega
  simp [hi, h32, BitVec.getLsbD_eq_getElem]

@[simp] theorem updReserved_zextByte (b : Byte) : updReserved (zextByte b) = 0#24 := by
  unfold updReserved zextByte
  ext i hi
  simp

/-- An operand field without reserved bits is its byte, zero-extended (rule R33). -/
theorem zextByte_byteOperand (arg : Word) (h : updReserved arg = 0#24) : zextByte (byteOperand arg) = arg := by
  unfold zextByte byteOperand
  ext i hi
  simp only [BitVec.getElem_setWidth, BitVec.getLsbD_extractLsb']
  by_cases h8 : i < 8
  · simp [h8, BitVec.getLsbD_eq_getElem hi]
  · have := congrArg (fun v => v.getLsbD (i - 8)) h
    simp only [updReserved, BitVec.getLsbD_extractLsb', BitVec.getLsbD_zero] at this
    have h24 : i - 8 < 24 := by omega
    have hi8 : 8 + (i - 8) = i := by omega
    simp only [h24, hi8, decide_true, Bool.true_and] at this
    simp [h8, ← BitVec.getLsbD_eq_getElem hi, this]

end Sys2Proof.Machine

namespace Sys2Proof

open Sys2Proof.Machine

/-- What the decoder answers, by opcode and operand field (rule R39): every use of `decode` can go through this. -/
theorem decode_mkCommand (op : Opcode) (arg : Word) :
    decode (mkCommand op arg) =
      if op = 0x1#4 then .instr (.seed arg)
      else if op = 0x2#4 then
        if updReserved arg = 0#24 then .instr (.upd (byteOperand arg)) else .reject .updReservedBits
      else if op = 0x3#4 then if arg = 0#32 then .instr .read else .reject .readOperand
      else if op = 0x4#4 then if arg = 0#32 then .instr .stat else .reject .statOperand
      else if op = 0x5#4 then if arg = 0#32 then .instr .clr else .reject .clrOperand
      else if op = 0x0#4 then .instr (.illegalOp0 arg)
      else if op = 0x6#4 ∨ op = 0x7#4 then .instr (.illegalOp67 op arg)
      else .instr (.illegalOp8F op arg) := by
  simp [decode, seedOperand]

/-- An illegal word (rule R34) is rejected or of an illegal row. -/
theorem decode_of_illegalWord (w : CommandWord) (h : illegalWord w = true) :
    (∃ why, decode w = .reject why) ∨ (∃ arg, decode w = .instr (.illegalOp0 arg))
    ∨ (∃ op arg, decode w = .instr (.illegalOp67 op arg)) ∨ ∃ op arg, decode w = .instr (.illegalOp8F op arg) := by
  obtain ⟨op, arg, rfl⟩ : ∃ op arg, w = mkCommand op arg := ⟨_, _, (mkCommand_fields w).symm⟩
  simp only [illegalWord, cwOp_mkCommand, cwArg_mkCommand] at h
  rw [decode_mkCommand]
  by_cases h1 : op = 0x1#4
  · subst h1; simp at h
  by_cases h2 : op = 0x2#4
  · subst h2; simp at h; simp [h]
  by_cases h3 : op = 0x3#4
  · subst h3; simp at h; simp [h]
  by_cases h4 : op = 0x4#4
  · subst h4; simp at h; simp [h]
  by_cases h5 : op = 0x5#4
  · subst h5; simp at h; simp [h]
  rw [if_neg h1, if_neg h2, if_neg h3, if_neg h4, if_neg h5]
  split
  · simp
  · split <;> simp

end Sys2Proof
end

