-- ==== Sys2Proof/Laws/PerInstr.lean ====
section
/-! SUPPORT. The family `Expansion`: about an instruction as syntax. Its words are the words of the single instructions it
stands for, one word each, and those are well-formed and stand for themselves (30_encoding.md rules R35, R37). -/

namespace Sys2Proof.Laws.Expansion

open Sys2Proof.Machine

/-- What the family says of one instruction. -/
def Statement (i : Instr) : Prop :=
  encode i = (expand i).flatMap encode
  ∧ (encode i).length = (expand i).length
  ∧ (WellFormed i → ∀ j ∈ expand i, WellFormed j ∧ expand j = [j])

/-- An instruction that stands for itself and has one word has the property. -/
theorem statement_of_self {i : Instr} (h : expand i = [i]) (hl : (encode i).length = 1) : Statement i := by
  refine ⟨by simp [h], by simp [h, hl], fun hw j hj => ?_⟩
  rw [h, List.mem_singleton] at hj
  subst hj
  exact ⟨hw, h⟩

theorem seed (s : Word) : Statement (.seed s) := statement_of_self rfl rfl

theorem upd (b : Byte) : Statement (.upd b) := statement_of_self rfl rfl

theorem read : Statement .read := statement_of_self rfl rfl

theorem stat : Statement .stat := statement_of_self rfl rfl

theorem clr : Statement .clr := statement_of_self rfl rfl

theorem illegalOp0 (arg : Word) : Statement (.illegalOp0 arg) := statement_of_self rfl rfl

theorem illegalOp67 (op : Opcode) (arg : Word) : Statement (.illegalOp67 op arg) := statement_of_self rfl rfl

theorem illegalOp8F (op : Opcode) (arg : Word) : Statement (.illegalOp8F op arg) := statement_of_self rfl rfl

theorem init : Statement .init := by
  refine ⟨rfl, rfl, fun _ j hj => ?_⟩
  rw [show expand .init = [.seed 0x00000000#32] from rfl, List.mem_singleton] at hj
  subst hj
  exact ⟨rfl, rfl⟩

theorem upds (bs : List Byte) : Statement (.upds bs) := by
  refine ⟨?_, by simp [encode, expand], fun _ j hj => ?_⟩
  · induction bs with
    | nil => rfl
    | cons b bs ih => exact congrArg (mkCommand 0x2#4 (zextByte b) :: ·) ih
  · obtain ⟨b, -, rfl⟩ := List.mem_map.1 (show j ∈ bs.map Instr.upd from hj)
    exact ⟨rfl, rfl⟩

end Sys2Proof.Laws.Expansion
end

