-- ==== Sys2Proof/Tests/Slice0.lean ====
section
/-! SUPPORT. Small tests, each on one step or one value. Every expected value stands in the spec: a row of
95_test_vectors.md (named V<n>, "2.3" for its table of single commands, "2.4" for reset), or the rule named. At the end, for
every statement with a premise, values that meet all its premises, one set for each of its clauses. -/

namespace Sys2Proof.Tests

open Sys2Proof Sys2Proof.Machine

/-! ### Well-formedness refuses -/

theorem test_wellFormed_refuses_op67_below : wellFormed (.illegalOp67 0x5#4 0#32) = false := by decide

theorem test_wellFormed_refuses_op67_above : wellFormed (.illegalOp67 0x8#4 0#32) = false := by decide

theorem test_wellFormed_refuses_op8F_below : wellFormed (.illegalOp8F 0x7#4 0#32) = false := by decide

/-! ### Decoding, one word of each constructor written out from rule R32, and one of each rejection from rule R34 -/

theorem test_decode_seed : decode 0b0001_10011011111000111110000010100011#36 = .instr (.seed 0x9BE3E0A3#32) := by decide

theorem test_decode_upd : decode 0b0010_00000000000000000000000000110001#36 = .instr (.upd 0x31#8) := by decide

theorem test_decode_read : decode 0b0011_00000000000000000000000000000000#36 = .instr .read := by decide

theorem test_decode_stat : decode 0b0100_00000000000000000000000000000000#36 = .instr .stat := by decide

theorem test_decode_clr : decode 0b0101_00000000000000000000000000000000#36 = .instr .clr := by decide

theorem test_decode_op0 : decode 0x012345678#36 = .instr (.illegalOp0 0x12345678#32) := by decide

theorem test_decode_op6 : decode 0x600000000#36 = .instr (.illegalOp67 0x6#4 0x00000000#32) := by decide

theorem test_decode_op7 : decode 0x700000005#36 = .instr (.illegalOp67 0x7#4 0x00000005#32) := by decide

theorem test_decode_op8 : decode 0x800000000#36 = .instr (.illegalOp8F 0x8#4 0x00000000#32) := by decide

theorem test_decode_opF : decode 0xFFFFFFFFF#36 = .instr (.illegalOp8F 0xF#4 0xFFFFFFFF#32) := by decide

/-- INIT's word is SEED's of zero (rule R62). -/
theorem test_decode_init_word : (encode .init).map decode = [.instr (.seed 0x00000000#32)] := by decide

/-- UPDS's words are UPD's (rule R66). -/
theorem test_decode_upds_words :
    encode (.upds [0x31#8, 0x32#8]) = [0x200000031#36, 0x200000032#36]
    ∧ (encode (.upds [0x31#8, 0x32#8])).map decode = [.instr (.upd 0x31#8), .instr (.upd 0x32#8)] := by decide

theorem test_decode_rejects :
    decode 0x200000131#36 = .reject .updReservedBits ∧ decode 0x280000000#36 = .reject .updReservedBits
    ∧ decode 0x300000001#36 = .reject .readOperand ∧ decode 0x400000001#36 = .reject .statOperand
    ∧ decode 0x580000000#36 = .reject .clrOperand := by decide

theorem test_decodeTableWord :
    decodeTableWord 40 0x19BE3E0A3 = some (.seed 0x9BE3E0A3#32) ∧ decodeTableWord 40 0x2000000FF = some (.upd 0xFF#8)
    ∧ decodeTableWord 40 0x200000100 = none ∧ decodeTableWord 40 0x1100000000 = none := by decide

/-! ### One step on one word -/

/-- What one step leaves of the accumulator and answers, `none` if it stops. -/
def stepOn (acc : Option Word) (w : CommandWord) : Option (Option Word × List CommandWord × List ResponseWord) :=
  match step ⟨acc, false, [w], []⟩ with
  | .next t => some (t.acc, t.commands, t.responses)
  | .fault _ => none
  | .refused _ => none

/-- 2.3: over a valid value, no error. -/
theorem test_seed_overwrites :
    stepOn (some 0x12345678#32) 0x19BE3E0A3#36 = some (some 0x9BE3E0A3#32, [], [0x000000000#36]) := by decide

/-- 2.3: the word of `init`. -/
theorem test_seed_zero_on_unset : stepOn none 0x100000000#36 = some (some 0x00000000#32, [], [0x000000000#36]) := by decide

theorem test_upd_absorbs :
    stepOn (some 0x9AE0DAAF#32) 0x200000039#36 = some (some 0xCBF43926#32, [], [0x000000000#36]) := by decide +kernel

theorem test_upd_on_unset : stepOn none 0x200000031#36 = some (none, [], [0x100000000#36]) := by decide

theorem test_read_value :
    stepOn (some 0xCBF43926#32) 0x300000000#36 = some (some 0xCBF43926#32, [], [0x0CBF43926#36]) := by decide

theorem test_read_on_unset : stepOn none 0x300000000#36 = some (none, [], [0x100000000#36]) := by decide

/-- 2.3: a valid zero is valid. -/
theorem test_stat_valid :
    stepOn (some 0x00000000#32) 0x400000000#36 = some (some 0x00000000#32, [], [0x000000001#36]) := by decide

theorem test_stat_unset : stepOn none 0x400000000#36 = some (none, [], [0x000000000#36]) := by decide

theorem test_clr : stepOn (some 0xCBF43926#32) 0x500000000#36 = some (none, [], [0x000000000#36]) := by decide

theorem test_illegal_op0 : stepOn (some 0xCBF43926#32) 0x012345678#36 = some (none, [], [0x200000000#36]) := by decide

theorem test_illegal_op7 : stepOn (some 0xCBF43926#32) 0x700000005#36 = some (none, [], [0x200000000#36]) := by decide

theorem test_illegal_opF : stepOn (some 0xCBF43926#32) 0xFFFFFFFFF#36 = some (none, [], [0x200000000#36]) := by decide

/-- 2.3: nothing is absorbed, and the value of a READ with an operand is not returned. -/
theorem test_illegal_stray_bits :
    [(0x00000000#32, 0x200000131#36), (0xCBF43926#32, 0x300000001#36), (0xCBF43926#32, 0x400000001#36),
      (0xCBF43926#32, 0x580000000#36)].map (fun q => stepOn (some q.1) q.2)
    = List.replicate 4 (some (none, [], [0x200000000#36])) := by decide

/-- 2.3: `ERR_ILLEGAL` wins over `ERR_UNSET` (rule R95). -/
theorem test_illegal_wins :
    stepOn none 0x200000100#36 = some (none, [], [0x200000000#36])
    ∧ stepOn none 0x300000001#36 = some (none, [], [0x200000000#36]) := by decide

/-- INIT as an instruction (rule R62). -/
theorem test_exec_init : exec .init State.reset = .next ⟨some 0x00000000#32, false, [], [0x000000000#36]⟩ := rfl

/-- UPDS of no bytes does nothing and gets no response (rule R37); of two, V13. -/
theorem test_exec_upds_none : exec (.upds []) State.reset = .next State.reset := rfl

theorem test_exec_upds_unset :
    exec (.upds [0x31#8, 0x32#8]) State.reset = .next ⟨none, false, [], [0x100000000#36, 0x100000000#36]⟩ := rfl

/-- 2.4: reset from a busy state, rule R107. -/
theorem test_reset_drops :
    step ⟨some 0xCBF43926#32, true, [0x300000000#36], [0x000000000#36]⟩ = .next State.reset := rfl

/-- A word placed on the reset state runs next. -/
theorem test_withFetchWord_runs :
    step (State.reset.withFetchWord 40 0x19BE3E0A3) = .next ⟨some 0x9BE3E0A3#32, false, [], [0x000000000#36]⟩ := rfl

/-- The channel operations of rules R105 and R118. -/
theorem test_channels :
    State.reset.acceptCommand 0x300000000#36 = ⟨none, false, [0x300000000#36], []⟩
    ∧ (State.assertReset State.reset).acceptCommand 0x300000000#36 = ⟨none, true, [], []⟩
    ∧ State.deliverResponse ⟨none, false, [], [0x000000001#36, 0x000000002#36]⟩
        = some (0x000000001#36, ⟨none, false, [], [0x000000002#36]⟩) := by decide

/-! ### The function -/

/-- The ASCII digits `1` to `9`. -/
def digits : List Byte := [0x31#8, 0x32#8, 0x33#8, 0x34#8, 0x35#8, 0x36#8, 0x37#8, 0x38#8, 0x39#8]

theorem test_crc_check : crcUpdate blockConfig 0#32 digits = 0xCBF43926#32 := by decide +kernel

/-- V13, V14: order matters. -/
theorem test_crc_order :
    crcUpdate blockConfig 0#32 [0x31#8, 0x32#8] = 0x4F5344CD#32
    ∧ crcUpdate blockConfig 0#32 [0x32#8, 0x31#8] = 0xFD7746B4#32 := by decide +kernel

/-- V27, V19, V21. -/
theorem test_crc_seeds :
    crcUpdate blockConfig 0#32 [0x9D#8, 0x0A#8, 0xD9#8, 0x6D#8] = 0x00000000#32
    ∧ crcUpdate blockConfig 0xDEADBEEF#32 [0x61#8] = 0xD8DCEC14#32
    ∧ crcUpdate blockConfig 0x80000000#32 [0x00#8] = 0xD282EF8D#32 := by decide +kernel

/-- The other configurations of rule R58's table of check values. -/
theorem test_crc_variants :
    crcUpdate { blockConfig with xorio := 0#32 } 0#32 digits = 0x2DFD2D88#32
    ∧ crcUpdate { blockConfig with xorio := 0#32 } 0xFFFFFFFF#32 digits = 0x340BC6D9#32
    ∧ crcUpdate { blockConfig with reflect := false } 0#32 digits = 0xFC891918#32
    ∧ crcUpdate { blockConfig with reflect := false, xorio := 0#32 } 0xFFFFFFFF#32 digits = 0x0376E6E7#32
    ∧ crcUpdate { blockConfig with reflect := false, xorio := 0#32 } 0#32 digits = 0x89A1897F#32 := by decide +kernel

/-! ### The host -/

/-- 2.4: `init; read` (rule R108). -/
theorem test_minimal_sequence :
    converse State.reset (callWords 0#32 []) = some ([0x000000000#36, 0x000000000#36], ⟨some 0#32, false, [], []⟩) := by
  decide

/-- A reading in chunks of at most 2: of one byte, then of as many as allowed (rule R78). -/
theorem test_chunks : chunksOf 2 [1, 9] [0x31#8, 0x32#8, 0x33#8, 0x34#8] = [[0x31#8], [0x32#8, 0x33#8], [0x34#8]] := by
  decide

/-- A file of the given content, nothing computed yet, for the tests. -/
def testFile (content : List Byte) (partialRead fullRead : FileRead) : HostFile :=
  ⟨content, ⟨content.length, none, none⟩, partialRead, fullRead⟩

/-- Scenario 2 in small (95_test_vectors.md P6), with `P = 1`: equal partial fingerprints, different full ones. -/
theorem test_oracle_full_differs :
    (matchOracle 1 ⟨State.reset, 0⟩ (testFile [0x61#8, 0x62#8] (.complete []) (.complete []))
      (testFile [0x61#8, 0x63#8] (.complete []) (.complete [1]))).1 = .different := by decide +kernel

/-- A file that could not be read is never equal (rule R82), and each failed attempt is reported once (rule R79). -/
theorem test_oracle_failure :
    let r := matchOracle 1024 ⟨State.reset, 0⟩ (testFile [0x61#8] (.complete []) (.complete []))
      (testFile [0x61#8] (.failed 0 []) (.failed 0 []))
    r.1 = .different ∧ r.2.2.2.failureReports = 1 := by decide +kernel

/-! ### The assembler (rules R36, R37) -/

/-- `Seed 0x9BE3E0A3 ; x` -/
theorem test_asm_seed :
    assembleText ['S', 'e', 'e', 'd', ' ', '0', 'x', '9', 'B', 'E', '3', 'E', '0', 'A', '3', ' ', ';', ' ', 'x']
      = some [0x19BE3E0A3#36] := by decide

/-- `upds 49, 0x32` and `upds "12"` -/
theorem test_asm_upds :
    assembleText ['u', 'p', 'd', 's', ' ', '4', '9', ',', ' ', '0', 'x', '3', '2'] = some [0x200000031#36, 0x200000032#36]
    ∧ assembleText ['u', 'p', 'd', 's', ' ', '"', '1', '2', '"'] = some [0x200000031#36, 0x200000032#36] := by decide

/-- `upd 256` and `read 0` are refused. -/
theorem test_asm_refuses :
    assembleText ['u', 'p', 'd', ' ', '2', '5', '6'] = none ∧ assembleText ['r', 'e', 'a', 'd', ' ', '0'] = none := by decide

/-- `.word 0x2_00000131` -/
theorem test_asm_word :
    assembleText ['.', 'w', 'o', 'r', 'd', ' ', '0', 'x', '2', '_', '0', '0', '0', '0', '0', '1', '3', '1']
      = some [0x200000131#36] := by decide

/-! ### Witnesses: the premises of the statements can be met -/

theorem test_witness_DecodeOfEncodeIsExpansion :
    WellFormed (.seed 0xFFFFFFFF#32) ∧ WellFormed (.upd 0xFF#8) ∧ WellFormed .read ∧ WellFormed .stat ∧ WellFormed .clr
    ∧ WellFormed (.illegalOp0 0#32) ∧ WellFormed (.illegalOp67 0x6#4 0#32) ∧ WellFormed (.illegalOp67 0x7#4 0#32)
    ∧ WellFormed (.illegalOp8F 0x8#4 0#32) ∧ WellFormed (.illegalOp8F 0xF#4 0#32) ∧ WellFormed .init
    ∧ WellFormed (.upds [0x31#8]) := by decide

theorem test_witness_EncodeOfDecodeIsTheWord :
    decode 0x1FFFFFFFF#36 = .instr (.seed 0xFFFFFFFF#32) ∧ decode 0x2000000FF#36 = .instr (.upd 0xFF#8)
    ∧ decode 0x6FFFFFFFF#36 = .instr (.illegalOp67 0x6#4 0xFFFFFFFF#32) := by decide

/-- Each command row selects a word; a word of two rows does not exist, so the second part's premises hold for one row
twice. -/
theorem test_witness_IllegalIsNoCommandRow :
    seedPattern ∈ commandPatterns ∧ selectsRow seedPattern 0x1FFFFFFFF#36 = true
    ∧ updPattern ∈ commandPatterns ∧ selectsRow updPattern 0x2000000FF#36 = true
    ∧ readPattern ∈ commandPatterns ∧ selectsRow readPattern 0x300000000#36 = true
    ∧ statPattern ∈ commandPatterns ∧ selectsRow statPattern 0x400000000#36 = true
    ∧ clrPattern ∈ commandPatterns ∧ selectsRow clrPattern 0x500000000#36 = true
    ∧ (∀ p ∈ commandPatterns, selectsRow p 0x200000100#36 = false) := by decide

/-- The splitting clause: its first part answers a next state. -/
theorem test_witness_UpdsAbsorbsBuffer :
    exec (.upds [0x31#8]) State.reset = .next ⟨none, false, [], [0x100000000#36]⟩ := rfl

theorem test_witness_StepRunsDecodedInstruction :
    decode 0x19BE3E0A3#36 = .instr (.seed 0x9BE3E0A3#32) ∧ decode 0x200000000#36 = .instr (.upd 0x00#8)
    ∧ decode 0x300000000#36 = .instr .read ∧ decode 0x400000000#36 = .instr .stat ∧ decode 0x500000000#36 = .instr .clr
    ∧ decode 0x0FFFFFFFF#36 = .instr (.illegalOp0 0xFFFFFFFF#32) := by decide

/-- The boundary words of rule R34's clauses; legal words beside them. -/
theorem test_witness_EveryIllegalWordPoisons :
    illegalWord 0x0FFFFFFFF#36 = true ∧ illegalWord 0x600000000#36 = true ∧ illegalWord 0x200000100#36 = true
    ∧ illegalWord 0x300000001#36 = true ∧ illegalWord 0x400000001#36 = true ∧ illegalWord 0x500000001#36 = true
    ∧ illegalWord 0x100000000#36 = false ∧ illegalWord 0x2000000FF#36 = false ∧ illegalWord 0x500000000#36 = false := by
  decide

theorem test_witness_ErrorPriority : illegalWord 0x200000100#36 = true ∧ illegalWord 0x300000001#36 = true := by decide

theorem test_witness_PoisonedStreamYieldsNoChecksum : illegalWord 0x200000131#36 = true := by decide

/-- Both sides of the equivalence are met by READ and UPD on an unset accumulator. -/
theorem test_witness_UnsetErrorOnlyFromUpdAndRead :
    stepOn none 0x300000000#36 = some (none, [], [0x100000000#36])
    ∧ stepOn none 0x2000000FF#36 = some (none, [], [0x100000000#36])
    ∧ decode 0x300000000#36 = .instr .read ∧ decode 0x2000000FF#36 = .instr (.upd 0xFF#8) := by decide

theorem test_witness_ResponsesStayLegal :
    State.ResponsesLegal ⟨none, false, [0x300000000#36], [0x0FFFFFFFF#36, 0x100000000#36, 0x200000000#36]⟩
    ∧ step ⟨none, false, [0x300000000#36], [0x0FFFFFFFF#36, 0x100000000#36, 0x200000000#36]⟩
      = .next ⟨none, false, [], [0x0FFFFFFFF#36, 0x100000000#36, 0x200000000#36, 0x100000000#36]⟩ :=
  ⟨List.all_eq_true.1 (by decide), rfl⟩

theorem test_witness_AccHoldsChecksumOfStream :
    State.AccIs ⟨none, false, [], []⟩ none ∧ State.AccIs ⟨some 0x83DCEFB7#32, false, [], []⟩ (some ⟨0#32, [0x31#8]⟩) := by
  decide +kernel

theorem test_witness_BitStepShiftsAndIsLinear :
    (0x00000001#32).getLsbD 0 = true ∧ (0x80000000#32).getLsbD 0 = false := by decide

/-- One byte, and four. -/
theorem test_witness_LocalDifferencesDetected :
    (([0x61#8] : List Byte).length = [0x62#8].length ∧ ([0x61#8] : List Byte).length ≤ 4 ∧ [0x61#8] ≠ [0x62#8])
    ∧ ([0#8, 0#8, 0#8, 0#8].length = [1#8, 0#8, 0#8, 1#8].length ∧ [0#8, 0#8, 0#8, 0#8].length ≤ 4
      ∧ [0#8, 0#8, 0#8, 0#8] ≠ [1#8, 0#8, 0#8, 1#8]) := by decide

theorem test_witness_SeedDifferenceIsStepped : (0x9BE3E0A3#32 : Word) ≠ 0x00000000#32 := by decide

/-- A file in chunks of at most 2: full, short and empty ones. -/
theorem test_witness_FingerprintsAreChecksums :
    IsChunking 2 [[0x31#8, 0x32#8], [], [0x33#8]] [0x31#8, 0x32#8, 0x33#8] := by
  refine ⟨rfl, ?_⟩
  decide

theorem test_witness_EmptyFilesAreEqual : (testFile [] (.complete []) (.complete [])).record.size = 0 := rfl

/-- A file with nothing computed is faithful. -/
theorem testFile_faithful (p : Nat) (content : List Byte) (r r' : FileRead) : (testFile content r r').Faithful p :=
  ⟨fun _ h => (nomatch h), fun _ h => (nomatch h)⟩

/-- A file whose partial fingerprint is there already, and which cannot be read again for it: `crc(0, "1") = 0x83DCEFB7`. -/
def cachedFile : HostFile := ⟨[0x31#8, 0x32#8], ⟨2, some 0x83DCEFB7#32, none⟩, .failed 0 [], .complete [1]⟩

theorem cachedFile_faithful : cachedFile.Faithful 1 := by
  refine ⟨fun v h => ?_, fun _ h => (nomatch h)⟩
  cases h
  decide +kernel

/-- One file read anew, one with a cached fingerprint. -/
theorem test_witness_OracleNeverSeparatesEqualFiles :
    let a := testFile [0x31#8, 0x32#8] (.complete []) (.complete [])
    a.content = cachedFile.content ∧ a.content ≠ [] ∧ a.record.size = a.content.length
    ∧ cachedFile.record.size = cachedFile.content.length ∧ a.Faithful 1 ∧ cachedFile.Faithful 1
    ∧ a.partialReadable = true ∧ cachedFile.partialReadable = true
    ∧ a.fullReadable 1 = true ∧ cachedFile.fullReadable 1 = true :=
  ⟨rfl, by decide, rfl, rfl, testFile_faithful _ _ _ _, cachedFile_faithful, rfl, rfl, rfl, rfl⟩

theorem test_witness_OracleDecidesByFingerprints :
    cachedFile.record.size ≠ 0 ∧ cachedFile.Faithful 1
    ∧ (testFile [0x31#8, 0x33#8] (.failed 1 []) (.complete [])).Faithful 1 :=
  ⟨by decide, cachedFile_faithful, testFile_faithful _ _ _ _⟩

theorem test_witness_RecordsStayFaithful :
    cachedFile.Faithful 1 ∧ (testFile [0x31#8, 0x33#8] (.failed 1 []) (.complete [])).Faithful 1 :=
  ⟨cachedFile_faithful, testFile_faithful _ _ _ _⟩

/-- The first part, and the second with chunks of lengths 2 and 1. -/
theorem test_witness_HostReadsInOrderAndMixesNothingIn :
    0 < 2 ∧ ([[0x31#8, 0x32#8], [0x33#8]] : List (List Byte)).all (fun c => decide (c ≠ [] ∧ c.length ≤ 2)) = true := by
  decide

theorem test_witness_AssemblerChecksRanges :
    0xFFFFFFFF ≤ 0xFFFFFFFF ∧ 0xFFFFFFFF < 0x100000000 ∧ 0xFF ≤ 0xFF ∧ 0xFF < 0x100 := by decide

theorem test_witness_AssemblerEmitsOnlyLegalWords :
    assembleLine (.updsText ['1']) = some [0x200000031#36] ∧ (∀ n : Nat, AsmLine.updsText ['1'] ≠ .word n)
    ∧ 0x200000031#36 ∈ [0x200000031#36] := by
  refine ⟨by decide, fun n h => ?_, by decide⟩
  cases h

theorem test_witness_PseudoInstructionsExpand : ∀ c ∈ [Char.ofNat 0, Char.ofNat 0x7F, 'a'], c.toNat ≤ 0x7F := by
  simp

end Sys2Proof.Tests
end

section
/-! SUPPORT. The step on each command word of a call (30_encoding.md rule R32), the run over the words of `UPDS`, and the
call sequence of 44_host_sequences.md rule R75: the seed's word, the bytes' words, the word of `READ`. A state with `rst`
released is written out as its four fields, so that one run's end state is literally the next run's start. -/

namespace Sys2Proof.Machine

/-! ### One word: how it decodes and what its step does -/

@[simp] theorem decode_seedWord (v : Word) : decode (mkCommand 0x1#4 v) = .instr (.seed v) := by
  rw [decode_mkCommand, if_pos rfl]

@[simp] theorem decode_updWord (b : Byte) : decode (mkCommand 0x2#4 (zextByte b)) = .instr (.upd b) := by
  simp [decode_mkCommand]

@[simp] theorem decode_readWord : decode (mkCommand 0x3#4 0#32) = .instr .read := by
  simp [decode_mkCommand]

/-- The step on a word that decodes to an instruction is the instruction's meaning. -/
theorem step_of_decode {w : CommandWord} {i : Instr} (h : decode w = .instr i) (acc : Option Word)
    (rest : List CommandWord) (rs : List ResponseWord) :
    step ⟨acc, false, w :: rest, rs⟩ = exec i ⟨acc, false, rest, rs⟩ := by
  rw [step_cons ⟨acc, false, w :: rest, rs⟩ w rest, h]

/-- `SEED v`, whatever the accumulator (rule R60). -/
theorem step_seedWord (acc : Option Word) (v : Word) (rest : List CommandWord) (rs : List ResponseWord) :
    step ⟨acc, false, mkCommand 0x1#4 v :: rest, rs⟩ = .next ⟨some v, false, rest, rs ++ [0x000000000#36]⟩ :=
  step_of_decode (decode_seedWord v) acc rest rs

/-- `UPD b` on a valid accumulator (rule R65). -/
theorem step_updWord_of_some (v : Word) (b : Byte) (rest : List CommandWord) (rs : List ResponseWord) :
    step ⟨some v, false, mkCommand 0x2#4 (zextByte b) :: rest, rs⟩
      = .next ⟨some (crcByte blockConfig v b), false, rest, rs ++ [0x000000000#36]⟩ := by
  rw [step_of_decode (decode_updWord b)]
  exact congrArg Host.Outcome.next (absorb_of_some rfl b)

/-- `READ` on a valid accumulator (rule R70). -/
theorem step_readWord_of_some (v : Word) (rest : List CommandWord) (rs : List ResponseWord) :
    step ⟨some v, false, mkCommand 0x3#4 0#32 :: rest, rs⟩ = .next ⟨some v, false, rest, rs ++ [0x0#4 ++ v]⟩ := by
  rw [step_of_decode decode_readWord]
  exact congrArg Host.Outcome.next (withAcc_of_some rfl _)

/-! ### The words of `UPDS`, and the call -/

/-- A buffer absorbed into a valid accumulator, one step and one OK response for each byte (rules R48, R66). -/
theorem runSteps_updsWords_of_some (v : Word) (buf : List Byte) (rest : List CommandWord) (rs : List ResponseWord) :
    runSteps buf.length ⟨some v, false, encode (.upds buf) ++ rest, rs⟩
      = .next ⟨some (crcUpdate blockConfig v buf), false, rest,
          rs ++ List.replicate buf.length 0x000000000#36⟩ := by
  induction buf generalizing v rs with
  | nil => simp [runSteps, encode]
  | cons b buf ih =>
    calc runSteps (buf.length + 1) ⟨some v, false, encode (.upds (b :: buf)) ++ rest, rs⟩
        = runSteps buf.length
            ⟨some (crcByte blockConfig v b), false, encode (.upds buf) ++ rest, rs ++ [0x000000000#36]⟩ :=
          runSteps_succ _ (step_updWord_of_some v b _ rs)
      _ = .next ⟨some (crcUpdate blockConfig (crcByte blockConfig v b) buf), false, rest,
            rs ++ [0x000000000#36] ++ List.replicate buf.length 0x000000000#36⟩ := ih _ _
      _ = _ := by simp [List.replicate_succ]

/-- The words of the call, the first and the last written out (rule R75). -/
theorem callWords_append (seed : Word) (buf : List Byte) (rest : List CommandWord) :
    callWords seed buf ++ rest
      = mkCommand 0x1#4 seed :: (encode (.upds buf) ++ mkCommand 0x3#4 0#32 :: rest) := by
  simp [callWords, encode]

/-- The call from any accumulator, with any words waiting behind it and any responses undelivered (rules R2, R75). -/
theorem runSteps_callWords (acc : Option Word) (seed : Word) (buf : List Byte) (rest : List CommandWord)
    (rs : List ResponseWord) :
    runSteps (buf.length + 2) ⟨acc, false, callWords seed buf ++ rest, rs⟩
      = .next ⟨some (crcUpdate blockConfig seed buf), false, rest,
          rs ++ (List.replicate (buf.length + 1) 0x000000000#36 ++ [0x0#4 ++ crcUpdate blockConfig seed buf])⟩ := by
  rw [callWords_append]
  calc runSteps (buf.length + 2)
          ⟨acc, false, mkCommand 0x1#4 seed :: (encode (.upds buf) ++ mkCommand 0x3#4 0#32 :: rest), rs⟩
      = runSteps (buf.length + 1)
          ⟨some seed, false, encode (.upds buf) ++ mkCommand 0x3#4 0#32 :: rest, rs ++ [0x000000000#36]⟩ :=
        runSteps_succ _ (step_seedWord acc seed _ rs)
    _ = runSteps 1 ⟨some (crcUpdate blockConfig seed buf), false, mkCommand 0x3#4 0#32 :: rest,
          rs ++ [0x000000000#36] ++ List.replicate buf.length 0x000000000#36⟩ :=
        runSteps_add _ 1 (runSteps_updsWords_of_some seed buf _ _)
    _ = .next ⟨some (crcUpdate blockConfig seed buf), false, rest,
          rs ++ [0x000000000#36] ++ List.replicate buf.length 0x000000000#36
            ++ [0x0#4 ++ crcUpdate blockConfig seed buf]⟩ :=
        runSteps_succ 0 (step_readWord_of_some _ rest _)
    _ = _ := by simp [List.replicate_succ]

/-- Settles O41: any state with `rst` released is of the form that `runSteps_callWords` speaks of. -/
theorem callSequenceReturnsChecksum : Obligations.CallSequenceReturnsChecksum :=
  fun s seed buf rest => runSteps_callWords s.acc seed buf rest s.responses

end Sys2Proof.Machine
end

section
/-! SUPPORT. The block's behaviour as a function of accumulator and word (10_state.md rule R19): the accumulator after an
instruction and the answer to it, as two functions of the accumulator alone; `exec` and `step` said once by them. What the
family claims of the flag (rule R12) and of the stream (rule R11) is then about these functions, not about the machine. -/

namespace Sys2Proof.Machine

/-! ### The two functions -/

/-- `ACC` after an instruction (the column "Writes" of rule R14). An unset accumulator stays unset under UPD and READ: that
is their error entry (rule R91). -/
def accAfter (acc : Option Word) : Instr → Option Word
  | .seed v => some v
  | .upd b => acc.map (crcByte blockConfig · b)
  | .read => acc
  | .stat => acc
  | .clr => none
  | .illegalOp0 _ => none
  | .illegalOp67 _ _ => none
  | .illegalOp8F _ _ => none
  | .init => some freshSeed
  | .upds bs => acc.map (crcUpdate blockConfig · bs)

/-- The answer to one byte (rules R65, R91). -/
def byteAnswer (acc : Option Word) : ResponseWord := if acc.isSome then 0x000000000#36 else 0x100000000#36

/-- The answer to READ (rules R70, R91). -/
def readAnswer : Option Word → ResponseWord
  | none => 0x100000000#36
  | some v => mkResponse (statusCode .ok) v

/-- The answer to each word of an instruction (rule R31). -/
def answerTo (acc : Option Word) : Instr → ResponseWord
  | .seed _ => 0x000000000#36
  | .upd _ => byteAnswer acc
  | .read => readAnswer acc
  | .stat => mkResponse (statusCode .ok) (zextFlag acc.isSome)
  | .clr => 0x000000000#36
  | .illegalOp0 _ => 0x200000000#36
  | .illegalOp67 _ _ => 0x200000000#36
  | .illegalOp8F _ _ => 0x200000000#36
  | .init => 0x000000000#36
  | .upds _ => byteAnswer acc

/-- `ACC` after a command word: a rejected word is an error like the illegal rows (rule R92). -/
def accAfterWord (acc : Option Word) (w : CommandWord) : Option Word :=
  match decode w with
  | .instr i => accAfter acc i
  | .reject _ => none

/-- The one answer to a command word. -/
def answerToWord (acc : Option Word) (w : CommandWord) : ResponseWord :=
  match decode w with
  | .instr i => answerTo acc i
  | .reject _ => 0x200000000#36

theorem accAfterWord_of_instr {w : CommandWord} {i : Instr} (h : decode w = .instr i) (acc : Option Word) :
    accAfterWord acc w = accAfter acc i := by simp [accAfterWord, h]

theorem accAfterWord_of_reject {w : CommandWord} {why : Rejection} (h : decode w = .reject why) (acc : Option Word) :
    accAfterWord acc w = none := by simp [accAfterWord, h]

theorem answerToWord_of_instr {w : CommandWord} {i : Instr} (h : decode w = .instr i) (acc : Option Word) :
    answerToWord acc w = answerTo acc i := by simp [answerToWord, h]

theorem answerToWord_of_reject {w : CommandWord} {why : Rejection} (h : decode w = .reject why) (acc : Option Word) :
    answerToWord acc w = 0x200000000#36 := by simp [answerToWord, h]

/-! ### The machine by the two functions -/

/-- `absorb` in both cases of the accumulator at once. -/
theorem absorb_eq (s : State) (b : Byte) :
    s.absorb b = { s with acc := s.acc.map (crcByte blockConfig · b),
                          responses := s.responses ++ [byteAnswer s.acc] } := by
  obtain ⟨h, e⟩ | ⟨v, h, e⟩ := absorb_cases s b
  · rw [e, h]; rfl
  · rw [e, h]; rfl

/-- A buffer absorbed byte by byte (rule R66): validity never changes on the way, so every byte gets the same answer. -/
theorem foldl_absorb_eq (bs : List Byte) (s : State) :
    bs.foldl State.absorb s = { s with acc := s.acc.map (crcUpdate blockConfig · bs),
                                       responses := s.responses ++ List.replicate bs.length (byteAnswer s.acc) } := by
  induction bs generalizing s with
  | nil => simp
  | cons b bs ih =>
    have hvalid : byteAnswer (s.acc.map (crcByte blockConfig · b)) = byteAnswer s.acc := by simp [byteAnswer]
    rw [List.foldl_cons, ih, absorb_eq, hvalid]
    simp [List.replicate_succ, Function.comp_def]

/-- The meaning of every instruction: the new accumulator, one answer for each of its words, and nothing else. -/
theorem exec_eq (i : Instr) (s : State) :
    exec i s = .next { s with acc := accAfter s.acc i,
                              responses := s.responses ++ List.replicate (encode i).length (answerTo s.acc i) } := by
  cases i with
  | upd b => exact congrArg Host.Outcome.next (absorb_eq s b)
  | read =>
    obtain ⟨acc, rst, commands, responses⟩ := s
    cases acc <;> rfl
  | upds bs =>
    have hlen : (encode (.upds bs)).length = bs.length := by simp [encode]
    rw [hlen]
    exact congrArg Host.Outcome.next (foldl_absorb_eq bs s)
  | _ => rfl

/-- What decodes to an instruction is one word, so no word decodes to UPDS as a whole (rules R39, R66). -/
theorem encode_length_of_decode {w : CommandWord} {i : Instr} (h : decode w = .instr i) : (encode i).length = 1 := by
  rw [← mkCommand_fields w, decode_mkCommand] at h
  repeat' split at h
  all_goals cases h
  all_goals rfl

/-- The step on any word, from any state with `rst` released (rules R19, R27): the word is consumed, the accumulator is the
word's, one answer is put behind those already there, and nothing else changes. -/
theorem step_word (acc : Option Word) (w : CommandWord) (rest : List CommandWord) (rs : List ResponseWord) :
    step ⟨acc, false, w :: rest, rs⟩ = .next ⟨accAfterWord acc w, false, rest, rs ++ [answerToWord acc w]⟩ := by
  cases hd : decode w with
  | instr i =>
    rw [step_of_decode hd, exec_eq, encode_length_of_decode hd, accAfterWord_of_instr hd, answerToWord_of_instr hd]
    rfl
  | reject why =>
    rw [step_cons ⟨acc, false, w :: rest, rs⟩ w rest, hd, accAfterWord_of_reject hd, answerToWord_of_reject hd]
    rfl

/-! ### Totality and the dependence on accumulator and word -/

/-- Settles O22, along the four kinds of step. -/
theorem stepNeverStops : Obligations.StepNeverStops := by
  intro s
  obtain ⟨-, h⟩ | ⟨-, -, h⟩ | ⟨_, _, i, -, -, -, h⟩ | ⟨_, _, _, -, -, -, h⟩ := step_cases s
  · exact ⟨_, h⟩
  · exact ⟨_, h⟩
  · rw [h]; exact exec_is_next i _
  · exact ⟨_, h⟩

/-- Settles O23: the function is `accAfterWord` paired with `answerToWord`. -/
theorem behaviourIsFunctionOfAccAndWord : Obligations.BehaviourIsFunctionOfAccAndWord :=
  ⟨fun acc w => (accAfterWord acc w, answerToWord acc w), fun s w rest => step_word s.acc w rest s.responses⟩

/-! ### The flag -/

/-- Settles O25: the step's accumulator is `accAfterWord`, and mapping a function over `ACC` keeps `ACC.VALID`. -/
theorem validFlagRule : Obligations.ValidFlagRule := by
  refine ⟨fun s w rest => ⟨_, step_word s.acc w rest s.responses, ?_⟩, fun s => ⟨_, step_of_rst rfl, rfl⟩⟩
  simp only [State.valid]
  cases hd : decode w with
  | reject why => rw [accAfterWord_of_reject hd]; rfl
  | instr i =>
    rw [accAfterWord_of_instr hd]
    cases i with
    | upd b => exact Option.isSome_map
    | upds bs => exact Option.isSome_map
    | _ => rfl

/-! ### The stream -/

/-- A buffer after a buffer (rule R48). -/
theorem crcUpdate_append (k : Config) (s : Word) (as bs : List Byte) :
    crcUpdate k s (as ++ bs) = crcUpdate k (crcUpdate k s as) bs := List.foldl_append

/-- One instruction keeps the invariant of rule R11: the accumulator follows the history. -/
theorem accAfter_streamChecksum (h : Option Stream) (i : Instr) :
    accAfter (h.map streamChecksum) i = (trackInstr h i).map streamChecksum := by
  cases i with
  | upd b => cases h <;> simp [accAfter, trackInstr, streamChecksum, crcUpdate_snoc]
  | upds bs => cases h <;> simp [accAfter, trackInstr, streamChecksum, crcUpdate_append]
  | _ => rfl

/-- One word keeps it: a rejected word ends the stream and unsets the accumulator. -/
theorem accAfterWord_streamChecksum (h : Option Stream) (w : CommandWord) :
    accAfterWord (h.map streamChecksum) w = (trackWord h w).map streamChecksum := by
  unfold trackWord
  cases hd : decode w with
  | instr i => rw [accAfterWord_of_instr hd]; exact accAfter_streamChecksum h i
  | reject why => exact accAfterWord_of_reject hd _

/-- The run over any words, from a stream in progress or none. -/
theorem runSteps_streamChecksum (ws rest : List CommandWord) (h : Option Stream) (rs : List ResponseWord) :
    ∃ rs', runSteps ws.length ⟨h.map streamChecksum, false, ws ++ rest, rs⟩
      = .next ⟨(trackWords h ws).map streamChecksum, false, rest, rs'⟩ := by
  induction ws generalizing h rs with
  | nil => exact ⟨rs, rfl⟩
  | cons w ws ih =>
    have hstep := step_word (h.map streamChecksum) w (ws ++ rest) rs
    rw [accAfterWord_streamChecksum] at hstep
    obtain ⟨rs', hrun⟩ := ih (trackWord h w) _
    exact ⟨rs', (runSteps_succ _ hstep).trans hrun⟩

/-- Settles O29, from the run over the words, by induction on them. -/
theorem accHoldsChecksumOfStream : Obligations.AccHoldsChecksumOfStream := by
  intro ws rest s h hacc
  obtain ⟨rs', hrun⟩ := runSteps_streamChecksum ws rest h s.responses
  rw [← hacc] at hrun
  exact ⟨_, hrun, rfl, rfl, rfl⟩

/-- Settles O30: the base case of the invariant of O29. -/
theorem resetHasNoStream : Obligations.ResetHasNoStream := reset_acc

end Sys2Proof.Machine
end

section
/-! SUPPORT. The command and response channels over any words (20_memory.md, rule R27): what the accumulator is after a list
of words and how they are answered, as functions of the accumulator and the words alone; and the run that consumes exactly
those words. -/

namespace Sys2Proof.Machine

/-! ### The words of a run, as one accumulator and one list of answers -/

/-- `ACC` after the words, oldest first. -/
def accAfterWords (acc : Option Word) (ws : List CommandWord) : Option Word := ws.foldl accAfterWord acc

/-- The answers to the words, oldest first: each word is answered for the accumulator the words before it left. -/
def answersToWords : Option Word → List CommandWord → List ResponseWord
  | _, [] => []
  | acc, w :: ws => answerToWord acc w :: answersToWords (accAfterWord acc w) ws

@[simp] theorem accAfterWords_nil (acc : Option Word) : accAfterWords acc [] = acc := rfl

@[simp] theorem accAfterWords_cons (acc : Option Word) (w : CommandWord) (ws : List CommandWord) :
    accAfterWords acc (w :: ws) = accAfterWords (accAfterWord acc w) ws := rfl

@[simp] theorem answersToWords_nil (acc : Option Word) : answersToWords acc [] = [] := rfl

@[simp] theorem answersToWords_cons (acc : Option Word) (w : CommandWord) (ws : List CommandWord) :
    answersToWords acc (w :: ws) = answerToWord acc w :: answersToWords (accAfterWord acc w) ws := rfl

/-- Every word gets one answer, whatever the accumulator. -/
@[simp] theorem answersToWords_length (acc : Option Word) (ws : List CommandWord) :
    (answersToWords acc ws).length = ws.length := by
  induction ws generalizing acc with
  | nil => rfl
  | cons w ws ih => rw [answersToWords_cons, List.length_cons, List.length_cons, ih]

/-! ### The run over the words -/

/-- The run over any words with others waiting behind them (rules R27, R31): the words are consumed, their answers stand in
order behind the responses already there, and what waits behind is untouched. -/
theorem runSteps_words (ws rest : List CommandWord) (acc : Option Word) (rs : List ResponseWord) :
    runSteps ws.length ⟨acc, false, ws ++ rest, rs⟩
      = .next ⟨accAfterWords acc ws, false, rest, rs ++ answersToWords acc ws⟩ := by
  induction ws generalizing acc rs with
  | nil => simp [runSteps]
  | cons w ws ih =>
    calc runSteps (ws.length + 1) ⟨acc, false, w :: (ws ++ rest), rs⟩
        = runSteps ws.length ⟨accAfterWord acc w, false, ws ++ rest, rs ++ [answerToWord acc w]⟩ :=
          runSteps_succ _ (step_word acc w (ws ++ rest) rs)
      _ = .next ⟨accAfterWords (accAfterWord acc w) ws, false, rest,
            rs ++ [answerToWord acc w] ++ answersToWords (accAfterWord acc w) ws⟩ := ih _ _
      _ = _ := by simp

/-- Settles O24: the responses are `answersToWords`, one for each word by its length. -/
theorem oneResponsePerCommand : Obligations.OneResponsePerCommand :=
  fun ws rest s => ⟨_, answersToWords s.acc ws, runSteps_words ws rest s.acc s.responses,
    answersToWords_length s.acc ws, rfl, rfl, rfl⟩

/-- Settles O14: any state with `rst` released is of the form that `step_of_decode` speaks of. -/
theorem stepRunsDecodedInstruction : Obligations.StepRunsDecodedInstruction :=
  fun s _ rest _ hdecode => step_of_decode hdecode s.acc rest s.responses

end Sys2Proof.Machine
end

section
/-! SUPPORT. The three readings of a command word held against each other: the decoder (30_encoding.md rule R39), the match
and mask table (rule R32) and the illegal words (rule R34). Two facts carry the family. Decoding inverts encoding in both
directions (`decode_eq_instr_iff`), and a row selects a word by its two fields (`selectsRow_iff`); each row is then a
condition on opcode and operand field. -/

namespace Sys2Proof.Machine

/-! ### Decode and encode -/

@[simp] theorem decode_statWord : decode (mkCommand 0x4#4 0#32) = .instr .stat := by
  simp [decode_mkCommand]

@[simp] theorem decode_clrWord : decode (mkCommand 0x5#4 0#32) = .instr .clr := by
  simp [decode_mkCommand]

@[simp] theorem decode_illegalOp0Word (arg : Word) : decode (mkCommand 0x0#4 arg) = .instr (.illegalOp0 arg) := by
  simp [decode_mkCommand]

/-- The opcodes of row ILLEGAL.op8_F are those that every earlier question of the decoder leaves (rule R39). -/
theorem msb_iff_ne (op : Opcode) : op.msb = true ↔
    op ≠ 0x1#4 ∧ op ≠ 0x2#4 ∧ op ≠ 0x3#4 ∧ op ≠ 0x4#4 ∧ op ≠ 0x5#4 ∧ op ≠ 0x0#4 ∧ ¬(op = 0x6#4 ∨ op = 0x7#4) := by
  revert op
  decide

theorem wellFormed_illegalOp67_iff (op : Opcode) (arg : Word) :
    WellFormed (.illegalOp67 op arg) ↔ op = 0x6#4 ∨ op = 0x7#4 := by
  simp [WellFormed, wellFormed]

theorem decode_illegalOp67Word {op : Opcode} (arg : Word) (h : op = 0x6#4 ∨ op = 0x7#4) :
    decode (mkCommand op arg) = .instr (.illegalOp67 op arg) := by
  obtain rfl | rfl := h
  · simp [decode_mkCommand]
  · simp [decode_mkCommand]

theorem decode_illegalOp8FWord {op : Opcode} (arg : Word) (h : op.msb = true) :
    decode (mkCommand op arg) = .instr (.illegalOp8F op arg) := by
  obtain ⟨h1, h2, h3, h4, h5, h0, h67⟩ := (msb_iff_ne op).1 h
  rw [decode_mkCommand, if_neg h1, if_neg h2, if_neg h3, if_neg h4, if_neg h5, if_neg h0, if_neg h67]

/-- Settles O1, row by row. -/
theorem decodeOfEncodeIsExpansion : Obligations.DecodeOfEncodeIsExpansion := by
  intro i hwf
  cases i with
  | seed s => exact congrArg (fun d => [d]) (decode_seedWord s)
  | upd b => exact congrArg (fun d => [d]) (decode_updWord b)
  | read => exact congrArg (fun d => [d]) decode_readWord
  | stat => exact congrArg (fun d => [d]) decode_statWord
  | clr => exact congrArg (fun d => [d]) decode_clrWord
  | illegalOp0 arg => exact congrArg (fun d => [d]) (decode_illegalOp0Word arg)
  | illegalOp67 op arg => exact congrArg (fun d => [d]) (decode_illegalOp67Word arg ((wellFormed_illegalOp67_iff op arg).1 hwf))
  | illegalOp8F op arg => exact congrArg (fun d => [d]) (decode_illegalOp8FWord arg hwf)
  | init => exact congrArg (fun d => [d]) (decode_seedWord 0#32)
  | upds bs => simp [encode, expand, Function.comp_def]

/-- Settles O2, along the branches of the decode procedure. UPD's branch is where a bit could be dropped: its reserved bits
are 0, so the field is its byte, zero-extended. -/
theorem encodeOfDecodeIsTheWord : Obligations.EncodeOfDecodeIsTheWord := by
  intro w i h
  obtain ⟨op, arg, rfl⟩ : ∃ op arg, w = mkCommand op arg := ⟨_, _, (mkCommand_fields w).symm⟩
  rw [decode_mkCommand] at h
  split at h
  · next h1 => cases h; cases h1; exact ⟨rfl, rfl, rfl⟩
  next h1 =>
  split at h
  · next h2 =>
    split at h
    · next hreserved =>
      cases h; cases h2
      exact ⟨rfl, by rw [encode, zextByte_byteOperand arg hreserved], rfl⟩
    · cases h
  next h2 =>
  split at h
  · next h3 =>
    split at h
    · next harg => cases h; cases h3; cases harg; exact ⟨rfl, rfl, rfl⟩
    · cases h
  next h3 =>
  split at h
  · next h4 =>
    split at h
    · next harg => cases h; cases h4; cases harg; exact ⟨rfl, rfl, rfl⟩
    · cases h
  next h4 =>
  split at h
  · next h5 =>
    split at h
    · next harg => cases h; cases h5; cases harg; exact ⟨rfl, rfl, rfl⟩
    · cases h
  next h5 =>
  split at h
  · next h0 => cases h; cases h0; exact ⟨rfl, rfl, rfl⟩
  next h0 =>
  split at h
  · next h67 => cases h; exact ⟨(wellFormed_illegalOp67_iff op arg).2 h67, rfl, rfl⟩
  · next h67 => cases h; exact ⟨(msb_iff_ne op).2 ⟨h1, h2, h3, h4, h5, h0, h67⟩, rfl, rfl⟩

/-- Decoding answers `i` exactly for the one word of a well-formed row: both directions of the map at once. -/
theorem decode_eq_instr_iff {w : CommandWord} {i : Instr} :
    decode w = .instr i ↔ WellFormed i ∧ encode i = [w] ∧ expand i = [i] := by
  refine ⟨encodeOfDecodeIsTheWord w i, fun ⟨hwf, hword, hself⟩ => ?_⟩
  have hmap := decodeOfEncodeIsExpansion i hwf
  rw [hword, hself] at hmap
  exact List.singleton_inj.1 hmap

/-! ### A word and its fields -/

theorem mkCommand_eq_iff {op : Opcode} {arg : Word} {w : CommandWord} :
    mkCommand op arg = w ↔ cwOp w = op ∧ cwArg w = arg := by
  constructor
  · rintro rfl
    exact ⟨cwOp_mkCommand op arg, cwArg_mkCommand op arg⟩
  · rintro ⟨rfl, rfl⟩
    exact mkCommand_fields w

theorem commandWord_eq_iff {w v : CommandWord} : w = v ↔ cwOp w = cwOp v ∧ cwArg w = cwArg v := by
  rw [← mkCommand_eq_iff, mkCommand_fields, eq_comm]

theorem cwOp_and (w v : CommandWord) : cwOp (w &&& v) = cwOp w &&& cwOp v := BitVec.extractLsb'_and

theorem cwArg_and (w v : CommandWord) : cwArg (w &&& v) = cwArg w &&& cwArg v := BitVec.extractLsb'_and

/-- UPD's operand is the low byte of the word itself (rule R33). -/
theorem byteOperand_cwArg (w : CommandWord) : byteOperand (cwArg w) = w.extractLsb' 0 8 := by
  unfold byteOperand cwArg
  ext i hi
  simp

/-- Exactly the zero-extended bytes have no reserved bit (rules R32, R33). -/
theorem eq_zextByte_iff (arg : Word) : arg = zextByte (byteOperand arg) ↔ updReserved arg = 0#24 := by
  refine ⟨fun h => ?_, fun h => (zextByte_byteOperand arg h).symm⟩
  rw [h, updReserved_zextByte]

/-- The mask of row UPD shows the reserved bits and nothing else of the field (rule R32). -/
theorem and_updMask_eq_zero_iff (arg : Word) : arg &&& 0xFFFFFF00#32 = 0#32 ↔ updReserved arg = 0#24 := by
  have hreserved : updReserved (arg &&& 0xFFFFFF00#32) = updReserved arg :=
    calc updReserved (arg &&& 0xFFFFFF00#32)
        = updReserved arg &&& BitVec.allOnes 24 := BitVec.extractLsb'_and
      _ = updReserved arg := BitVec.and_allOnes
  have hbyte : byteOperand (arg &&& 0xFFFFFF00#32) = 0#8 :=
    calc byteOperand (arg &&& 0xFFFFFF00#32)
        = byteOperand arg &&& 0#8 := BitVec.extractLsb'_and
      _ = 0#8 := BitVec.and_zero
  constructor
  · intro h
    rw [← hreserved, h]
    rfl
  · intro h
    rw [← zextByte_byteOperand _ (hreserved.trans h), hbyte]
    rfl

/-! ### The rows of the match and mask table, as conditions on the two fields (rule R32) -/

/-- A row is selected by its opcode field and its operand field apart. -/
theorem selectsRow_iff (p : WordPattern) (w : CommandWord) : selectsRow p w = true ↔
    cwOp w &&& cwOp p.mask = cwOp p.value ∧ cwArg w &&& cwArg p.mask = cwArg p.value := by
  rw [selectsRow, beq_iff_eq, commandWord_eq_iff, cwOp_and, cwArg_and]

/-- A row that compares the opcode only, and all of it. -/
theorem selectsRow_opcode_iff {p : WordPattern} (hmask : p.mask = 0xF00000000#36) (hvalue : cwArg p.value = 0#32)
    (w : CommandWord) : selectsRow p w = true ↔ cwOp w = cwOp p.value := by
  have hop : cwOp w &&& cwOp 0xF00000000#36 = cwOp w := BitVec.and_allOnes
  have harg : cwArg w &&& cwArg 0xF00000000#36 = 0#32 := BitVec.and_zero
  rw [selectsRow_iff, hmask, hop, harg, hvalue, and_iff_left rfl]

/-- A row that compares all bits. -/
theorem selectsRow_word_iff {p : WordPattern} (hmask : p.mask = 0xFFFFFFFFF#36) (w : CommandWord) :
    selectsRow p w = true ↔ w = p.value := by
  have hall : w &&& 0xFFFFFFFFF#36 = w := BitVec.and_allOnes
  rw [selectsRow, hmask, hall, beq_iff_eq]

theorem selectsRow_seed_iff (w : CommandWord) : selectsRow seedPattern w = true ↔ cwOp w = 0x1#4 :=
  selectsRow_opcode_iff rfl rfl w

theorem selectsRow_upd_iff (w : CommandWord) :
    selectsRow updPattern w = true ↔ cwOp w = 0x2#4 ∧ updReserved (cwArg w) = 0#24 := by
  have hop : cwOp w &&& cwOp updPattern.mask = cwOp w := BitVec.and_allOnes
  rw [selectsRow_iff, hop]
  exact and_congr_right' (and_updMask_eq_zero_iff (cwArg w))

theorem selectsRow_read_iff (w : CommandWord) : selectsRow readPattern w = true ↔ w = mkCommand 0x3#4 0#32 :=
  selectsRow_word_iff rfl w

theorem selectsRow_stat_iff (w : CommandWord) : selectsRow statPattern w = true ↔ w = mkCommand 0x4#4 0#32 :=
  selectsRow_word_iff rfl w

theorem selectsRow_clr_iff (w : CommandWord) : selectsRow clrPattern w = true ↔ w = mkCommand 0x5#4 0#32 :=
  selectsRow_word_iff rfl w

theorem selectsRow_illegalOp0_iff (w : CommandWord) : selectsRow illegalOp0Pattern w = true ↔ cwOp w = 0x0#4 :=
  selectsRow_opcode_iff rfl rfl w

/-- `0x6` and `0x7` differ in the one opcode bit that the row's mask leaves out. -/
theorem selectsRow_illegalOp67_iff (w : CommandWord) :
    selectsRow illegalOp67Pattern w = true ↔ cwOp w = 0x6#4 ∨ cwOp w = 0x7#4 := by
  have hop : ∀ op : Opcode, op &&& 0xE#4 = 0x6#4 ↔ op = 0x6#4 ∨ op = 0x7#4 := by decide
  have harg : cwArg w &&& cwArg illegalOp67Pattern.mask = cwArg illegalOp67Pattern.value := BitVec.and_zero
  rw [selectsRow_iff, and_iff_left harg]
  exact hop (cwOp w)

/-- The row compares the highest opcode bit only. -/
theorem selectsRow_illegalOp8F_iff (w : CommandWord) :
    selectsRow illegalOp8FPattern w = true ↔ (cwOp w).msb = true := by
  have hop : ∀ op : Opcode, op &&& 0x8#4 = 0x8#4 ↔ op.msb = true := by decide
  have harg : cwArg w &&& cwArg illegalOp8FPattern.mask = cwArg illegalOp8FPattern.value := BitVec.and_zero
  rw [selectsRow_iff, and_iff_left harg]
  exact hop (cwOp w)

/-! ### The decoder's answers, as conditions on the two fields (rule R39) -/

/-- The decoder answers `i`, a row with an encoding `op`, `arg`, exactly where the word has these fields. -/
theorem decode_eq_instr_iff_fields {i : Instr} {op : Opcode} {arg : Word} (hwf : WellFormed i)
    (hword : encode i = [mkCommand op arg]) (hself : expand i = [i]) (w : CommandWord) :
    decode w = .instr i ↔ cwOp w = op ∧ cwArg w = arg := by
  rw [decode_eq_instr_iff, hword, List.singleton_inj, and_iff_left hself, and_iff_right hwf, mkCommand_eq_iff]

/-- Settles O3: each row's two conditions are the same condition on the fields. -/
theorem decodeFollowsMatchAndMask : Obligations.DecodeFollowsMatchAndMask := by
  intro w
  refine ⟨?seed, ?upd, ?read, ?stat, ?clr, ?illegalOp0, ?illegalOp67, ?illegalOp8F⟩
  case seed =>
    rw [selectsRow_seed_iff, decode_eq_instr_iff_fields rfl rfl rfl]
    exact (and_iff_left rfl).symm
  case upd =>
    rw [selectsRow_upd_iff, decode_eq_instr_iff_fields rfl rfl rfl, ← byteOperand_cwArg, eq_zextByte_iff]
  case read => rw [selectsRow_read_iff, decode_eq_instr_iff_fields rfl rfl rfl, ← mkCommand_eq_iff, eq_comm]
  case stat => rw [selectsRow_stat_iff, decode_eq_instr_iff_fields rfl rfl rfl, ← mkCommand_eq_iff, eq_comm]
  case clr => rw [selectsRow_clr_iff, decode_eq_instr_iff_fields rfl rfl rfl, ← mkCommand_eq_iff, eq_comm]
  case illegalOp0 =>
    rw [selectsRow_illegalOp0_iff, decode_eq_instr_iff_fields rfl rfl rfl]
    exact (and_iff_left rfl).symm
  case illegalOp67 =>
    have hword : [mkCommand (cwOp w) (cwArg w)] = [w] := by rw [mkCommand_fields]
    rw [selectsRow_illegalOp67_iff, decode_eq_instr_iff, wellFormed_illegalOp67_iff]
    exact (and_iff_left ⟨hword, rfl⟩).symm
  case illegalOp8F =>
    have hword : [mkCommand (cwOp w) (cwArg w)] = [w] := by rw [mkCommand_fields]
    rw [selectsRow_illegalOp8F_iff, decode_eq_instr_iff]
    exact (and_iff_left ⟨hword, rfl⟩).symm

/-- Settles O5: each word is the word its row encodes, or has a stray operand bit. -/
theorem knownWordsDecode : Obligations.KnownWordsDecode := by
  refine ⟨decode_seedWord 0x9BE3E0A3#32, decode_updWord 0x31#8, decode_readWord, decode_statWord, decode_clrWord,
    decode_illegalOp0Word 0x12345678#32, decode_illegalOp67Word (op := 0x7#4) 0x00000005#32 (.inr rfl),
    decode_illegalOp8FWord (op := 0xF#4) 0xFFFFFFFF#32 rfl, ?strayUpdBit, ?clrWithOperand⟩
  case strayUpdBit => decide
  case clrWithOperand => decide

/-! ### The illegal words (rule R34) -/

/-- Rule R34's three clauses as it writes them. -/
theorem illegalWord_iff (w : CommandWord) : illegalWord w = true ↔
    (cwOp w = 0x0#4 ∨ 0x6#4 ≤ cwOp w)
    ∨ (cwOp w = 0x2#4 ∧ updReserved (cwArg w) ≠ 0#24)
    ∨ ((cwOp w = 0x3#4 ∨ cwOp w = 0x4#4 ∨ cwOp w = 0x5#4) ∧ cwArg w ≠ 0#32) := by
  simp [illegalWord, or_assoc]

/-- No command row is selected: the five rows' conditions on the fields, negated. -/
theorem selects_no_commandPattern_iff (w : CommandWord) : (∀ p ∈ commandPatterns, selectsRow p w = false) ↔
    cwOp w ≠ 0x1#4 ∧ ¬(cwOp w = 0x2#4 ∧ updReserved (cwArg w) = 0#24) ∧ ¬(cwOp w = 0x3#4 ∧ cwArg w = 0#32)
    ∧ ¬(cwOp w = 0x4#4 ∧ cwArg w = 0#32) ∧ ¬(cwOp w = 0x5#4 ∧ cwArg w = 0#32) := by
  simp only [commandPatterns, List.forall_mem_cons, List.not_mem_nil, false_implies, implies_true, and_true,
    ← Bool.not_eq_true, selectsRow_seed_iff, selectsRow_upd_iff, selectsRow_read_iff, selectsRow_stat_iff,
    selectsRow_clr_iff, eq_comm (a := w), mkCommand_eq_iff, ne_eq]

/-- An opcode is one of the five commands' or reserved (rules R32, R34 a). -/
theorem opcode_cases (op : Opcode) :
    0x6#4 ≤ op ∨ op = 0x0#4 ∨ op = 0x1#4 ∨ op = 0x2#4 ∨ op = 0x3#4 ∨ op = 0x4#4 ∨ op = 0x5#4 := by
  revert op
  decide

/-- Opcode by opcode, a clause of rule R34 is the negation of the one row that has the opcode. -/
theorem illegalWord_iff_selects_no_commandPattern (w : CommandWord) :
    illegalWord w = true ↔ ∀ p ∈ commandPatterns, selectsRow p w = false := by
  rw [illegalWord_iff, selects_no_commandPattern_iff]
  obtain hreserved | h | h | h | h | h | h := opcode_cases (cwOp w)
  · have hne : ∀ low : Opcode, low < 0x6#4 → cwOp w ≠ low := fun low hlow heq =>
      absurd (heq ▸ hreserved) (BitVec.not_le.2 hlow)
    simp [hreserved, hne]
  all_goals simp [h]

/-- Every command row compares the whole opcode. -/
theorem cwOp_of_selectsRow {p : WordPattern} (hp : p ∈ commandPatterns) {w : CommandWord}
    (h : selectsRow p w = true) : cwOp w = cwOp p.value := by
  have hmask : ∀ p ∈ commandPatterns, cwOp p.mask = BitVec.allOnes 4 := by decide
  rw [← ((selectsRow_iff p w).1 h).1, hmask p hp, BitVec.and_allOnes]

/-- Settles O4: the clauses exclude the rows opcode by opcode, and two rows never share an opcode. -/
theorem illegalIsNoCommandRow : Obligations.IllegalIsNoCommandRow := by
  have hopcode : ∀ p ∈ commandPatterns, ∀ q ∈ commandPatterns, cwOp p.value = cwOp q.value → p = q := by decide
  refine fun w => ⟨illegalWord_iff_selects_no_commandPattern w, fun p hp q hq hpw hqw => hopcode p hp q hq ?_⟩
  exact (cwOp_of_selectsRow hp hpw).symm.trans (cwOp_of_selectsRow hq hqw)

end Sys2Proof.Machine
end

section
/-! SUPPORT. The response words a step can add (30_encoding.md rule R38): every answer to a command word is one of the
full set of words a version 1 block can emit, and a step adds no other word. -/

namespace Sys2Proof.Machine

/-- Status `OK` with any data (rule R38). -/
theorem emittable_ok (d : Word) : emittable (mkResponse (statusCode .ok) d) = true := by
  simp [emittable, statusCode]

theorem emittable_errUnset : emittable 0x100000000#36 = true := rfl

theorem emittable_errIllegal : emittable 0x200000000#36 = true := rfl

theorem emittable_byteAnswer (acc : Option Word) : emittable (byteAnswer acc) = true := by
  unfold byteAnswer
  split
  · exact emittable_ok 0x00000000#32
  · exact emittable_errUnset

theorem emittable_readAnswer (acc : Option Word) : emittable (readAnswer acc) = true := by
  cases acc with
  | none => exact emittable_errUnset
  | some v => exact emittable_ok v

/-- The answer to an instruction is one of the three kinds of rule R38, whatever the accumulator. -/
theorem emittable_answerTo (acc : Option Word) (i : Instr) : emittable (answerTo acc i) = true := by
  cases i with
  | upd b => exact emittable_byteAnswer acc
  | upds bs => exact emittable_byteAnswer acc
  | read => exact emittable_readAnswer acc
  | stat => exact emittable_ok (zextFlag acc.isSome)
  | illegalOp0 arg => exact emittable_errIllegal
  | illegalOp67 op arg => exact emittable_errIllegal
  | illegalOp8F op arg => exact emittable_errIllegal
  | _ => exact emittable_ok 0x00000000#32

theorem emittable_answerToWord (acc : Option Word) (w : CommandWord) : emittable (answerToWord acc w) = true := by
  cases hd : decode w with
  | instr i => rw [answerToWord_of_instr hd]; exact emittable_answerTo acc i
  | reject why => rw [answerToWord_of_reject hd]; exact emittable_errIllegal

/-- What a step can do to the response channel: empty it (reset), leave it (idle), or put one answer behind it. -/
theorem step_responses_cases {s t : State} (h : step s = .next t) :
    t.responses = [] ∨ t.responses = s.responses ∨ ∃ w, t.responses = s.responses ++ [answerToWord s.acc w] := by
  obtain ⟨acc, rst, commands, responses⟩ := s
  cases rst with
  | true =>
    rw [step_of_rst rfl] at h
    cases h
    exact .inl reset_responses
  | false =>
    cases commands with
    | nil =>
      rw [step_of_idle rfl rfl] at h
      cases h
      exact .inr (.inl rfl)
    | cons w rest =>
      rw [step_word] at h
      cases h
      exact .inr (.inr ⟨w, rfl⟩)

/-- Settles O27: what waits after a step waited before it or is the answer to a word. -/
theorem responsesStayLegal : Obligations.ResponsesStayLegal := by
  intro s t hlegal hstep r hr
  obtain hempty | hsame | ⟨w, hone⟩ := step_responses_cases hstep
  · rw [hempty] at hr
    cases hr
  · exact hlegal r (hsame ▸ hr)
  · rw [hone, List.mem_append, List.mem_singleton] at hr
    obtain hold | rfl := hr
    · exact hlegal r hold
    · exact emittable_answerToWord s.acc w

/-- Settles O28: the base case of the invariant of O27. -/
theorem resetResponsesLegal : Obligations.ResetResponsesLegal := by
  intro r hr
  rw [reset_responses] at hr
  cases hr

end Sys2Proof.Machine
end

section
/-! SUPPORT. The assembler's lines (30_encoding.md rules R36, R37): what each line with an operand assembles to, that the
words of a line other than `.word` are those of a legal instruction, and the expansions of the pseudo-instructions. -/

namespace Sys2Proof.Machine

/-! ### What a line assembles to -/

theorem assembleLine_seed_of_le {n : Nat} (h : n ≤ 0xFFFFFFFF) :
    assembleLine (.seed n) = some [mkCommand 0x1#4 (BitVec.ofNat 32 n)] := if_pos h

theorem assembleLine_seed_of_gt {n : Nat} (h : 0xFFFFFFFF < n) : assembleLine (.seed n) = none :=
  if_neg (Nat.not_le.2 h)

theorem assembleLine_upd_of_le {n : Nat} (h : n ≤ 0xFF) :
    assembleLine (.upd n) = some [mkCommand 0x2#4 (zextByte (BitVec.ofNat 8 n))] := if_pos h

theorem assembleLine_upd_of_gt {n : Nat} (h : 0xFF < n) : assembleLine (.upd n) = none :=
  if_neg (Nat.not_le.2 h)

/-- A number in range is the same operand field whether or not it goes through the byte (rule R33). -/
theorem zextByte_ofNat {n : Nat} (h : n ≤ 0xFF) : zextByte (BitVec.ofNat 8 n) = BitVec.ofNat 32 n := by
  apply BitVec.eq_of_toNat_eq
  simp only [zextByte, BitVec.toNat_setWidth, BitVec.toNat_ofNat]
  omega

/-- Settles O50. -/
theorem assemblerChecksRanges : Obligations.AssemblerChecksRanges := by
  refine fun n => ⟨assembleLine_seed_of_le, assembleLine_seed_of_gt, fun h => ?_, assembleLine_upd_of_gt, rfl, rfl, rfl⟩
  rw [assembleLine_upd_of_le h, zextByte_ofNat h]
  rfl

/-! ### Only `.word` writes an illegal word -/

/-- The rows that are no illegal class: the five commands and the two pseudo-instructions. -/
def isLegalRow : Instr → Bool
  | .illegalOp0 _ => false
  | .illegalOp67 _ _ => false
  | .illegalOp8F _ _ => false
  | _ => true

theorem illegalWord_updWord (b : Byte) : illegalWord (mkCommand 0x2#4 (zextByte b)) = false := by
  simp [illegalWord]

/-- What the encoder writes for a command or a pseudo-instruction is legal by rule R34. -/
theorem illegalWord_of_mem_encode {i : Instr} (hi : isLegalRow i = true) {w : CommandWord} (hw : w ∈ encode i) :
    illegalWord w = false := by
  cases i with
  | illegalOp0 arg => cases hi
  | illegalOp67 op arg => cases hi
  | illegalOp8F op arg => cases hi
  | upd b =>
    obtain rfl := List.mem_singleton.1 hw
    exact illegalWord_updWord b
  | upds bs =>
    obtain ⟨b, -, rfl⟩ := List.mem_map.1 hw
    exact illegalWord_updWord b
  | seed s =>
    obtain rfl := List.mem_singleton.1 hw
    simp [illegalWord]
  | _ =>
    obtain rfl := List.mem_singleton.1 hw
    rfl

/-- A line other than `.word` assembles to nothing or to the words of one command or pseudo-instruction (rules R36, R37). -/
theorem assembleLine_eq_encode {l : AsmLine} {ws : List CommandWord} (h : assembleLine l = some ws)
    (hl : ∀ n : Nat, l ≠ .word n) : ws = [] ∨ ∃ i, isLegalRow i = true ∧ ws = encode i := by
  cases l with
  | blank => exact .inl (Option.some.inj h).symm
  | word n => exact absurd rfl (hl n)
  | seed n =>
    obtain ⟨-, hws⟩ := Option.ite_none_right_eq_some.1 h
    exact .inr ⟨.seed _, rfl, (Option.some.inj hws).symm⟩
  | upd n =>
    obtain ⟨-, hws⟩ := Option.ite_none_right_eq_some.1 h
    exact .inr ⟨.upd _, rfl, (Option.some.inj hws).symm⟩
  | upds ns =>
    obtain ⟨-, hws⟩ := Option.ite_none_right_eq_some.1 h
    exact .inr ⟨.upds _, rfl, (Option.some.inj hws).symm⟩
  | updsText cs =>
    obtain ⟨-, hws⟩ := Option.ite_none_right_eq_some.1 h
    exact .inr ⟨.upds _, rfl, (Option.some.inj hws).symm⟩
  | read => exact .inr ⟨.read, rfl, (Option.some.inj h).symm⟩
  | stat => exact .inr ⟨.stat, rfl, (Option.some.inj h).symm⟩
  | clr => exact .inr ⟨.clr, rfl, (Option.some.inj h).symm⟩
  | init => exact .inr ⟨.init, rfl, (Option.some.inj h).symm⟩

/-- Settles O51. -/
theorem assemblerEmitsOnlyLegalWords : Obligations.AssemblerEmitsOnlyLegalWords := by
  intro l ws h hl w hw
  obtain rfl | ⟨i, hi, rfl⟩ := assembleLine_eq_encode h hl
  · cases hw
  · exact illegalWord_of_mem_encode hi hw

/-! ### The expansions of the pseudo-instructions -/

theorem assembleLines_cons (l : AsmLine) (ls : List AsmLine) :
    assembleLines (l :: ls) = (assembleLine l).bind fun ws => (assembleLines ls).map (ws ++ ·) := by
  rw [assembleLines]
  cases assembleLine l <;> cases assembleLines ls <;> rfl

theorem assembleLine_upds_of_le {ns : List Nat} (h : ∀ n ∈ ns, n ≤ 0xFF) :
    assembleLine (.upds ns) = some (encode (.upds (ns.map (BitVec.ofNat 8)))) :=
  if_pos (by simpa using h)

theorem assembleLine_upds_of_not_le {ns : List Nat} (h : ¬∀ n ∈ ns, n ≤ 0xFF) : assembleLine (.upds ns) = none :=
  if_neg (by simpa using h)

/-- One byte more at the front of `upds` is one line `upd` more before it, refused with it (rule R37). -/
theorem assembleLine_upds_cons (n : Nat) (ns : List Nat) : assembleLine (.upds (n :: ns))
    = (assembleLine (.upd n)).bind fun ws => (assembleLine (.upds ns)).map (ws ++ ·) := by
  by_cases hn : n ≤ 0xFF
  · by_cases hns : ∀ m ∈ ns, m ≤ 0xFF
    · rw [assembleLine_upds_of_le (List.forall_mem_cons.2 ⟨hn, hns⟩), assembleLine_upd_of_le hn,
        assembleLine_upds_of_le hns]
      rfl
    · rw [assembleLine_upds_of_not_le fun h => hns (List.forall_mem_cons.1 h).2, assembleLine_upd_of_le hn,
        assembleLine_upds_of_not_le hns]
      rfl
  · rw [assembleLine_upds_of_not_le fun h => hn (List.forall_mem_cons.1 h).1,
      assembleLine_upd_of_gt (Nat.not_le.1 hn)]
    rfl

theorem assembleLine_upds_eq_assembleLines (ns : List Nat) :
    assembleLine (.upds ns) = assembleLines (ns.map .upd) := by
  induction ns with
  | nil => rfl
  | cons n ns ih => rw [assembleLine_upds_cons, ih, List.map_cons, assembleLines_cons]

/-- A text of ASCII characters is the bytes of its codes (rule R37). -/
theorem assembleLine_updsText_of_ascii {cs : List Char} (h : ∀ c ∈ cs, c.toNat ≤ 0x7F) :
    assembleLine (.updsText cs) = assembleLine (.upds (cs.map Char.toNat)) := by
  have hbytes : ∀ n ∈ cs.map Char.toNat, n ≤ 0xFF :=
    List.forall_mem_map.2 fun c hc => (h c hc).trans (by decide)
  rw [assembleLine_upds_of_le hbytes, List.map_map]
  exact if_pos (by simpa using h)

theorem assembleLine_seed_toNat (s : Word) : assembleLine (.seed s.toNat) = some (encode (.seed s)) := by
  rw [assembleLine_seed_of_le (Nat.le_of_lt_succ s.isLt), BitVec.ofNat_toNat, BitVec.setWidth_eq]
  rfl

theorem assembleLine_upds_toNat (buf : List Byte) :
    assembleLine (.upds (buf.map BitVec.toNat)) = some (encode (.upds buf)) := by
  have hbytes : ∀ n ∈ buf.map BitVec.toNat, n ≤ 0xFF :=
    List.forall_mem_map.2 fun b _ => Nat.le_of_lt_succ b.isLt
  rw [assembleLine_upds_of_le hbytes, List.map_map]
  simp [Function.comp_def]

/-- The three lines of the call are the words of the call (rules R37, R75). -/
theorem assembleLines_call (s : Word) (buf : List Byte) :
    assembleLines [.seed s.toNat, .upds (buf.map BitVec.toNat), .read] = some (callWords s buf) := by
  have hread : assembleLines [.read] = some (encode .read) := rfl
  simp [assembleLines_cons _ [_, _], assembleLines_cons _ [_], assembleLine_seed_toNat, assembleLine_upds_toNat, hread,
    callWords]

/-- Settles O52. -/
theorem pseudoInstructionsExpand : Obligations.PseudoInstructionsExpand :=
  ⟨rfl, assembleLine_upds_eq_assembleLines, rfl, fun _ => assembleLine_updsText_of_ascii, assembleLines_call⟩

end Sys2Proof.Machine
end

section
/-! SUPPORT. The laws of the checksum function (40_crc_function.md sections 3 and 4). The bit step is linear and has an
inverse, and it only shifts while the bits it examines are 0. So a buffer adds a term of its own to the stepped register;
the table form, the inverses, the seed differences and the local differences follow from that. -/

namespace Sys2Proof.Machine

/-! ### One bit step (rules R45, R52) -/

theorem stepBit_of_bit0 {r : Word} (h : r.getLsbD 0 = true) : stepBit blockConfig r = (r >>> 1) ^^^ 0xEDB88320#32 := by
  rw [stepBit_block, if_pos h]

theorem stepBit_of_not_bit0 {r : Word} (h : r.getLsbD 0 = false) : stepBit blockConfig r = r >>> 1 := by
  rw [stepBit_block, h]
  exact BitVec.xor_zero

/-- The inverse as one expression: the polynomial is taken out where bit 31 is 1, and the bit shifted in is bit 31. -/
theorem unstepBit_block (r : Word) : unstepBit blockConfig r
    = (r ^^^ if r.msb then 0xEDB88320#32 else 0#32) <<< 1 ||| if r.msb then 1#32 else 0#32 := by
  simp only [unstepBit, blockConfig]
  split <;> simp

/-- The step is linear: the shift is, and the polynomial enters for exactly one of two bits or for none or both. -/
theorem stepBit_xor (a b : Word) :
    stepBit blockConfig (a ^^^ b) = stepBit blockConfig a ^^^ stepBit blockConfig b := by
  have hpoly : ∀ p q : Bool, (if (p ^^ q) = true then 0xEDB88320#32 else 0#32)
      = (if p = true then 0xEDB88320#32 else 0#32) ^^^ (if q = true then 0xEDB88320#32 else 0#32) := by decide
  simp only [stepBit_block, BitVec.getLsbD_xor, hpoly, BitVec.ushiftRight_xor_distrib]
  ac_rfl

theorem stepBit_iterate_xor (n : Nat) (a b : Word) :
    (stepBit blockConfig)^[n] (a ^^^ b) = (stepBit blockConfig)^[n] a ^^^ (stepBit blockConfig)^[n] b :=
  Function.Semiconj₂.iterate stepBit_xor n a b

/-- While the bits examined are 0, the steps are shifts. -/
theorem stepBit_iterate_of_low_zero {n : Nat} {r : Word} (h : ∀ i < n, r.getLsbD i = false) :
    (stepBit blockConfig)^[n] r = r >>> n := by
  induction n with
  | zero => rfl
  | succ n ih =>
    have hbit : (r >>> n).getLsbD 0 = false := by
      rw [BitVec.getLsbD_ushiftRight]
      exact h n n.lt_succ_self
    rw [Function.iterate_succ_apply', ih fun i hi => h i (Nat.lt_succ_of_lt hi), stepBit_of_not_bit0 hbit,
      BitVec.shiftRight_add]

/-- The shift puts 0 into bit 31 and the polynomial's bit 31 is 1, so the step keeps bit 0 there. -/
theorem msb_stepBit (r : Word) : (stepBit blockConfig r).msb = r.getLsbD 0 := by
  have hmsb : (r >>> 1).msb = false := by simp [BitVec.msb_ushiftRight]
  cases h : r.getLsbD 0 with
  | true => rw [stepBit_of_bit0 h, BitVec.msb_xor, hmsb]; rfl
  | false => rw [stepBit_of_not_bit0 h, hmsb]

/-- Bit 0 of the value stepped back to is bit 31 of the value. -/
theorem getLsbD_zero_unstepBit (r : Word) : (unstepBit blockConfig r).getLsbD 0 = r.msb := by
  rw [unstepBit_block]
  cases r.msb <;> simp

/-- A shift right and back loses bit 0 only. -/
theorem shiftRight_shiftLeft_one_or (r : Word) : r >>> 1 <<< 1 ||| (if r.getLsbD 0 then 1#32 else 0#32) = r := by
  ext i hi
  cases i with
  | zero => cases h : r.getLsbD 0 <;> simpa using h.symm
  | succ i => cases r.getLsbD 0 <;> simp [Nat.add_comm 1 i, BitVec.getLsbD_eq_getElem hi]

/-- A shift left and back loses nothing where the bits shifted out are 0. -/
theorem shiftLeft_shiftRight_of_lt {n : Nat} {v : Word} (h : v.toNat * 2 ^ n < 2 ^ 32) : v <<< n >>> n = v := by
  apply BitVec.eq_of_toNat_eq
  rw [BitVec.toNat_ushiftRight, BitVec.toNat_shiftLeft, Nat.shiftLeft_eq, Nat.mod_eq_of_lt h, Nat.shiftRight_eq_div_pow,
    Nat.mul_div_cancel _ (Nat.two_pow_pos n)]

/-- Without its polynomial a value has bit 31 clear, so a shift left and back restores it. -/
theorem unstepBit_shiftRight (r : Word) :
    unstepBit blockConfig r >>> 1 = r ^^^ if r.msb then 0xEDB88320#32 else 0#32 := by
  have hmsb : (r ^^^ if r.msb then 0xEDB88320#32 else 0#32).msb = false := by
    rw [BitVec.msb_xor]
    cases r.msb <;> rfl
  have hone : (if r.msb then 1#32 else 0#32 : Word) >>> 1 = 0#32 := by cases r.msb <;> rfl
  have hlt := BitVec.toNat_lt_of_msb_false hmsb
  rw [unstepBit_block, BitVec.ushiftRight_or_distrib, hone, BitVec.or_zero, shiftLeft_shiftRight_of_lt (by omega)]

theorem unstepBit_stepBit (r : Word) : unstepBit blockConfig (stepBit blockConfig r) = r := by
  rw [unstepBit_block, msb_stepBit, stepBit_block, xor_cancel_right, shiftRight_shiftLeft_one_or]

theorem stepBit_unstepBit (r : Word) : stepBit blockConfig (unstepBit blockConfig r) = r := by
  rw [stepBit_block, getLsbD_zero_unstepBit, unstepBit_shiftRight, xor_cancel_right]

theorem stepBit_bijective : Function.Bijective (stepBit blockConfig) :=
  Function.bijective_iff_has_inverse.2 ⟨unstepBit blockConfig, unstepBit_stepBit, stepBit_unstepBit⟩

/-! ### One byte (rules R46, R49) -/

theorem rawByte_block (r : Word) (b : Byte) :
    rawByte blockConfig r b = (stepBit blockConfig)^[8] (r ^^^ zextByte b) := rfl

/-- A byte moves the register by eight steps and adds a term of its own. -/
theorem rawByte_eq_xor (r : Word) (b : Byte) : rawByte blockConfig r b
    = (stepBit blockConfig)^[8] r ^^^ (stepBit blockConfig)^[8] (zextByte b) := by
  rw [rawByte_block, stepBit_iterate_xor]

theorem toNat_zextByte (b : Byte) : (zextByte b).toNat = b.toNat := BitVec.toNat_setWidth_of_le (by decide)

theorem zextByte_shiftRight_eight (b : Byte) : zextByte b >>> 8 = 0#32 := by
  unfold zextByte
  ext i hi
  simp

/-- The bits above the low byte are only shifted; the low byte has its own term. -/
theorem stepBit_iterate_eight (r : Word) : (stepBit blockConfig)^[8] r
    = (r >>> 8) ^^^ (stepBit blockConfig)^[8] (zextByte (byteOperand r)) := by
  have hlow : ∀ i < 8, (r ^^^ zextByte (byteOperand r)).getLsbD i = false := by
    intro i hi
    have hi32 : i < 32 := by omega
    simp [zextByte, byteOperand, hi, hi32]
  calc (stepBit blockConfig)^[8] r
      = (stepBit blockConfig)^[8] ((r ^^^ zextByte (byteOperand r)) ^^^ zextByte (byteOperand r)) := by
        rw [xor_cancel_right]
    _ = (r >>> 8) ^^^ (stepBit blockConfig)^[8] (zextByte (byteOperand r)) := by
        rw [stepBit_iterate_xor, stepBit_iterate_of_low_zero hlow, BitVec.ushiftRight_xor_distrib,
          zextByte_shiftRight_eight, BitVec.xor_zero]

/-- The printed table against the bit steps, entry by entry. -/
theorem tableEntry_eq (i : Byte) : tableEntry i = (stepBit blockConfig)^[8] (zextByte i) := by
  revert i
  decide +kernel

theorem rawByte_eq_table (r : Word) (b : Byte) :
    rawByte blockConfig r b = (r >>> 8) ^^^ tableEntry (byteOperand (r ^^^ zextByte b)) := by
  rw [rawByte_block, stepBit_iterate_eight, tableEntry_eq, BitVec.ushiftRight_xor_distrib, zextByte_shiftRight_eight,
    BitVec.xor_zero]

/-! ### A buffer in the register domain (rules R48, R56) -/

theorem crcUpdate_eq_foldl_rawByte (k : Config) (s : Word) (buf : List Byte) :
    crcUpdate k s buf = buf.foldl (rawByte k) (s ^^^ k.xorio) ^^^ k.xorio := by
  induction buf generalizing s with
  | nil => rw [crcUpdate_nil, List.foldl_nil, xor_cancel_right]
  | cons b buf ih => rw [crcUpdate_cons, ih, List.foldl_cons, crcByte, xor_cancel_right]

theorem crcUpdate_xorio (x s : Word) (buf : List Byte) : crcUpdate { blockConfig with xorio := x } s buf
    = buf.foldl (rawByte blockConfig) (s ^^^ x) ^^^ x := crcUpdate_eq_foldl_rawByte _ s buf

/-- A buffer moves the register by eight steps per byte and adds a term of its own, whatever the register was. -/
theorem foldl_rawByte_eq_xor (buf : List Byte) (r : Word) : buf.foldl (rawByte blockConfig) r
    = (stepBit blockConfig)^[8 * buf.length] r ^^^ buf.foldl (rawByte blockConfig) 0#32 := by
  induction buf generalizing r with
  | nil => exact BitVec.xor_zero.symm
  | cons b buf ih =>
    have hsteps : 8 * (b :: buf).length = 8 * buf.length + 8 := by rw [List.length_cons, Nat.mul_succ]
    rw [List.foldl_cons, List.foldl_cons, ih (rawByte blockConfig r b), ih (rawByte blockConfig 0#32 b),
      rawByte_eq_xor r b, rawByte_block 0#32 b, BitVec.zero_xor, stepBit_iterate_xor, hsteps,
      Function.iterate_add_apply, BitVec.xor_assoc]

theorem foldl_rawByte_bijective (buf : List Byte) :
    Function.Bijective fun r => buf.foldl (rawByte blockConfig) r := by
  rw [funext (foldl_rawByte_eq_xor buf)]
  exact (xor_left_involutive _).bijective.comp (stepBit_bijective.iterate _)

theorem crcUpdate_bijective (x : Word) (buf : List Byte) :
    Function.Bijective fun s => crcUpdate { blockConfig with xorio := x } s buf := by
  rw [funext fun s => crcUpdate_xorio x s buf]
  exact (xor_left_involutive x).bijective.comp ((foldl_rawByte_bijective buf).comp (xor_left_involutive x).bijective)

/-- Two runs over the same bytes: the buffer's own term cancels, and so does `XORIO`. -/
theorem crcUpdate_xor_crcUpdate (x s1 s2 : Word) (buf : List Byte) :
    crcUpdate { blockConfig with xorio := x } s1 buf ^^^ crcUpdate { blockConfig with xorio := x } s2 buf
      = (stepBit blockConfig)^[8 * buf.length] (s1 ^^^ s2) := by
  have hcancel : ∀ a b c : Word, (a ^^^ c) ^^^ (b ^^^ c) = a ^^^ b := by
    intro a b c
    rw [xor_comm b, xor_assoc, xor_cancel_left]
  rw [crcUpdate_xorio, crcUpdate_xorio, hcancel, foldl_rawByte_eq_xor, foldl_rawByte_eq_xor buf (s2 ^^^ x), hcancel,
    ← stepBit_iterate_xor, hcancel]

/-! ### Four bytes (rules R52, R53) -/

/-- A byte that enters after `n` steps could have entered `n` bits higher before them. -/
theorem rawByte_stepBit_iterate {n : Nat} (hn : n ≤ 24) (r : Word) (b : Byte) :
    rawByte blockConfig ((stepBit blockConfig)^[n] r) b = (stepBit blockConfig)^[8 + n] (r ^^^ zextByte b <<< n) := by
  have hlow : ∀ i < n, (zextByte b <<< n).getLsbD i = false := by
    intro i hi
    simp [hi]
  have hlt : (zextByte b).toNat * 2 ^ n < 2 ^ 32 :=
    calc (zextByte b).toNat * 2 ^ n
        < 2 ^ 8 * 2 ^ n := Nat.mul_lt_mul_of_pos_right (by rw [toNat_zextByte]; exact b.isLt) (Nat.two_pow_pos n)
      _ = 2 ^ (8 + n) := (Nat.pow_add 2 8 n).symm
      _ ≤ 2 ^ 32 := Nat.pow_le_pow_right (by decide) (by omega)
  rw [rawByte_block, Function.iterate_add_apply, stepBit_iterate_xor n r, stepBit_iterate_of_low_zero hlow,
    shiftLeft_shiftRight_of_lt hlt]

/-- A byte behind a value is the low byte, and the value stands eight bits higher. -/
theorem setWidth_append_byte {w : Nat} (v : BitVec w) (b : Byte) :
    (v ++ b).setWidth 32 = zextByte b ^^^ v.setWidth 32 <<< 8 := by
  unfold zextByte
  ext i hi
  by_cases h : i < 8
  · simp [BitVec.getLsbD_append, h]
  · have hb : b.getLsbD i = false := BitVec.getLsbD_of_ge b i (Nat.not_lt.1 h)
    simp [BitVec.getLsbD_append, h, hb]

theorem packBytes_eq_xor (b0 b1 b2 b3 : Byte) : packBytes b0 b1 b2 b3
    = zextByte b0 ^^^ zextByte b1 <<< 8 ^^^ zextByte b2 <<< 16 ^^^ zextByte b3 <<< 24 := by
  calc packBytes b0 b1 b2 b3
      = (b3 ++ b2 ++ b1 ++ b0).setWidth 32 := (BitVec.setWidth_eq _).symm
    _ = zextByte b0 ^^^ (zextByte b1 ^^^ (zextByte b2 ^^^ zextByte b3 <<< 8) <<< 8) <<< 8 := by
        rw [setWidth_append_byte, setWidth_append_byte, setWidth_append_byte]
        rfl
    _ = zextByte b0 ^^^ zextByte b1 <<< 8 ^^^ zextByte b2 <<< 16 ^^^ zextByte b3 <<< 24 := by
        simp only [BitVec.shiftLeft_xor_distrib, ← BitVec.shiftLeft_add, BitVec.xor_assoc]

/-- Four bytes are one 32-bit value, exclusive-ored in at once and stepped 32 times. -/
theorem foldl_rawByte_four (r : Word) (b0 b1 b2 b3 : Byte) : [b0, b1, b2, b3].foldl (rawByte blockConfig) r
    = (stepBit blockConfig)^[32] (r ^^^ packBytes b0 b1 b2 b3) := by
  simp only [List.foldl_cons, List.foldl_nil]
  rw [rawByte_block r, rawByte_stepBit_iterate (by decide), rawByte_stepBit_iterate (by decide),
    rawByte_stepBit_iterate (by decide), packBytes_eq_xor]
  simp only [BitVec.xor_assoc]

theorem append_byte_inj {w : Nat} {u v : BitVec w} {a b : Byte} : u ++ a = v ++ b ↔ a = b ∧ u = v := by
  constructor
  · intro h
    have hlow : a = b := by
      rw [← BitVec.extractLsb'_append_eq_right (a := u) (b := a), h, BitVec.extractLsb'_append_eq_right]
    exact ⟨hlow, (BitVec.append_left_inj a).1 (hlow ▸ h)⟩
  · rintro ⟨rfl, rfl⟩
    rfl

theorem packBytes_inj {a0 a1 a2 a3 b0 b1 b2 b3 : Byte} :
    packBytes a0 a1 a2 a3 = packBytes b0 b1 b2 b3 ↔ a0 = b0 ∧ a1 = b1 ∧ a2 = b2 ∧ a3 = b3 := by
  unfold packBytes
  rw [append_byte_inj, append_byte_inj, append_byte_inj]

theorem packBytes_extract (v : Word) : packBytes (v.extractLsb' 0 8) (v.extractLsb' 8 8) (v.extractLsb' 16 8)
    (v.extractLsb' 24 8) = v := by
  unfold packBytes
  rw [BitVec.extractLsb'_append_extractLsb'_eq_extractLsb' (show 24 = 16 + 8 from rfl),
    BitVec.extractLsb'_append_extractLsb'_eq_extractLsb' (show 16 = 8 + 8 from rfl),
    BitVec.extractLsb'_append_extractLsb'_eq_extractLsb' (show 8 = 0 + 8 from rfl), BitVec.extractLsb'_eq_self]

/-- Four bytes give every 32-bit value, each one exactly once. -/
theorem packBytes_bijective :
    Function.Bijective fun q : Byte × Byte × Byte × Byte => packBytes q.1 q.2.1 q.2.2.1 q.2.2.2 := by
  refine ⟨fun p q h => ?_, fun v => ⟨(_, _, _, _), packBytes_extract v⟩⟩
  obtain ⟨h0, h1, h2, h3⟩ := packBytes_inj.1 h
  exact Prod.ext h0 (Prod.ext h1 (Prod.ext h2 h3))

theorem crcUpdate_four (x s : Word) (b0 b1 b2 b3 : Byte) : crcUpdate { blockConfig with xorio := x } s [b0, b1, b2, b3]
    = (stepBit blockConfig)^[32] (s ^^^ x ^^^ packBytes b0 b1 b2 b3) ^^^ x := by
  rw [crcUpdate_xorio, foldl_rawByte_four]

/-- From any seed, the buffers of four bytes have every checksum, each one exactly once. -/
theorem crcUpdate_four_bijective (x s : Word) : Function.Bijective fun q : Byte × Byte × Byte × Byte =>
    crcUpdate { blockConfig with xorio := x } s [q.1, q.2.1, q.2.2.1, q.2.2.2] := by
  rw [funext fun q : Byte × Byte × Byte × Byte => crcUpdate_four x s q.1 q.2.1 q.2.2.1 q.2.2.2]
  exact (xor_left_involutive x).bijective.comp <| (stepBit_bijective.iterate 32).comp <|
    (xor_right_involutive (s ^^^ x)).bijective.comp packBytes_bijective

/-- Buffers of one length of at most four bytes with one checksum are equal: filled up to four bytes alike, they still have
one checksum. -/
theorem crcUpdate_inj_of_length_le_four {x s : Word} {a b : List Byte} (hlen : a.length = b.length) (h4 : a.length ≤ 4)
    (h : crcUpdate { blockConfig with xorio := x } s a = crcUpdate { blockConfig with xorio := x } s b) : a = b := by
  have hfill : ∀ c : List Byte, c.length = a.length → ∃ q : Byte × Byte × Byte × Byte,
      c ++ List.replicate (4 - a.length) 0#8 = [q.1, q.2.1, q.2.2.1, q.2.2.2] := by
    intro c hc
    obtain ⟨c0, c1, c2, c3, hfour⟩ := List.length_eq_four.1
      (show (c ++ List.replicate (4 - a.length) 0#8).length = 4 by simp; omega)
    exact ⟨(c0, c1, c2, c3), hfour⟩
  obtain ⟨p, hp⟩ := hfill a rfl
  obtain ⟨q, hq⟩ := hfill b hlen.symm
  have hpq : p = q := by
    apply (crcUpdate_four_bijective x s).injective
    dsimp only
    rw [← hp, ← hq, crcUpdate_append, crcUpdate_append, h]
  exact List.append_cancel_right (hp.trans (hpq ▸ hq.symm))

/-! ### The statements of the family -/

/-- Settles O31. -/
theorem bitStepShiftsAndIsLinear : Obligations.BitStepShiftsAndIsLinear :=
  ⟨fun _ => stepBit_of_bit0, fun _ => stepBit_of_not_bit0, stepBit_xor, rfl, rfl, rfl, rfl, rfl, rfl⟩

/-- Settles O32: the equation is `raw_byte`'s definition; the rest are its printed values. -/
theorem registerByteIsEightBitSteps : Obligations.RegisterByteIsEightBitSteps :=
  ⟨rawByte_block, by decide, rfl, rfl, rfl, rfl, rfl, rfl, rfl⟩

/-- Settles O33: with all ones for `XORIO`, an exclusive-or is a complement. -/
theorem checksumByteComplementsInAndOut : Obligations.ChecksumByteComplementsInAndOut := by
  have hcomplement : ∀ v : Word, v ^^^ 0xFFFFFFFF#32 = ~~~v := fun v => BitVec.xor_allOnes
  have hbyte : ∀ (c : Word) (b : Byte),
      crcByte blockConfig c b = rawByte blockConfig (c ^^^ 0xFFFFFFFF#32) b ^^^ 0xFFFFFFFF#32 := fun _ _ => rfl
  refine ⟨hbyte, fun c b => ?_, rfl, rfl, rfl, rfl, rfl, rfl, rfl⟩
  rw [hbyte, hcomplement, hcomplement]

/-- Settles O34. -/
theorem checksumIsFoldInEitherDomain : Obligations.ChecksumIsFoldInEitherDomain :=
  ⟨crcUpdate_cons blockConfig, crcUpdate_nil blockConfig, crcUpdate_eq_foldl_rawByte, by decide +kernel⟩

/-- Settles O35. -/
theorem tableFormAgrees : Obligations.TableFormAgrees := ⟨tableEntry_eq, rawByte_eq_table⟩

/-- Settles O36: a chain of calls is a fold of folds. -/
theorem chainingForEverySeed : Obligations.ChainingForEverySeed :=
  ⟨crcUpdate_nil, fun k s a b => (crcUpdate_append k s a b).symm, fun _ _ _ => List.foldl_flatten.symm⟩

/-- Settles O37: one byte is a buffer of length 1, in the value and in the byte. -/
theorem checksumIsInvertible : Obligations.ChecksumIsInvertible := by
  refine ⟨fun _ r => ⟨unstepBit_stepBit r, stepBit_unstepBit r⟩, fun x b => crcUpdate_bijective x [b],
    crcUpdate_bijective, fun x c b b' h => ?byte, foldl_rawByte_four,
    fun x v => (crcUpdate_four_bijective x 0#32).existsUnique v, by decide +kernel, by decide +kernel⟩
  case byte =>
    have hone : [b] = [b'] := crcUpdate_inj_of_length_le_four (x := x) (s := c) rfl (by simp) h
    exact List.singleton_inj.1 hone

/-- Settles O38: the bytes before bring both runs to one value, and the bytes after keep two values apart. -/
theorem localDifferencesDetected : Obligations.LocalDifferencesDetected := by
  intro x s before a b after hlen h4 hne h
  rw [crcUpdate_append, crcUpdate_append, crcUpdate_append, crcUpdate_append] at h
  have hwindow := (crcUpdate_bijective x after).injective h
  exact hne (crcUpdate_inj_of_length_le_four hlen h4 hwindow)

/-- Settles O39. -/
theorem seedDifferenceIsStepped : Obligations.SeedDifferenceIsStepped :=
  ⟨crcUpdate_xor_crcUpdate, fun _ _ buf hne h => hne ((crcUpdate_bijective 0xFFFFFFFF#32 buf).injective h), rfl⟩

/-- Settles O40: `0xFFFFFFFF` is register 0, which a zero byte leaves at 0. -/
theorem zeroBytesAndAllOnesSeed : Obligations.ZeroBytesAndAllOnesSeed := by
  have hfixed : crcByte blockConfig 0xFFFFFFFF#32 0x00#8 = 0xFFFFFFFF#32 := by decide
  refine ⟨fun n => ?zeros, by decide +kernel, by decide +kernel, by decide +kernel, by decide +kernel⟩
  case zeros =>
    induction n with
    | zero => rfl
    | succ n ih => rw [List.replicate_succ, crcUpdate_cons, hfixed, ih]

end Sys2Proof.Machine
end

section
/-! SUPPORT. The commands that set or clear the accumulator (41_seed_control.md): SEED, CLR and INIT, and what READ, STAT and
UPDS do on the accumulator they leave. A state is written as a record update of an arbitrary `s`; what the update does not
name is the frame. -/

namespace Sys2Proof.Machine

/-! ### What the three commands do, in every state -/

/-- `SEED v` (rule R60). -/
theorem exec_seed (v : Word) (s : State) :
    exec (.seed v) s = .next { s with acc := some v, responses := s.responses ++ [0x000000000#36] } :=
  exec_eq (.seed v) s

/-- `CLR` (rule R61). -/
theorem exec_clr (s : State) :
    exec .clr s = .next { s with acc := none, responses := s.responses ++ [0x000000000#36] } :=
  exec_eq .clr s

/-- `INIT` is `SEED` of zero, as a meaning (rule R62). -/
theorem exec_init_eq_exec_seed (s : State) : exec .init s = exec (.seed 0x00000000#32) s := rfl

/-! ### What follows on a computed and on an unset accumulator -/

/-- `READ` on `computed(v)` (rule R70). -/
theorem exec_read_computed (v : Word) (s : State) :
    exec .read { s with acc := some v } = .next { s with acc := some v, responses := s.responses ++ [0x0#4 ++ v] } :=
  exec_eq .read { s with acc := some v }

/-- `READ` on `unset` (rules R70, R91). -/
theorem exec_read_unset (s : State) :
    exec .read { s with acc := none } = .next { s with acc := none, responses := s.responses ++ [0x100000000#36] } :=
  exec_eq .read { s with acc := none }

/-- `STAT` on `unset` (rule R71). -/
theorem exec_stat_unset (s : State) :
    exec .stat { s with acc := none } = .next { s with acc := none, responses := s.responses ++ [0x000000000#36] } := by
  have hstatus : State.statusWord { s with acc := none } = 0x00000000#32 := statusWord_of_none rfl
  rw [exec, execStat, hstatus, State.respond, mkResponse_ok_zero]

/-- `UPDS` on `computed(v)` (rule R66). -/
theorem exec_upds_computed (v : Word) (buf : List Byte) (s : State) :
    exec (.upds buf) { s with acc := some v }
      = .next { s with acc := some (crcUpdate blockConfig v buf),
                       responses := s.responses ++ List.replicate buf.length 0x000000000#36 } :=
  congrArg Host.Outcome.next (foldl_absorb_eq buf { s with acc := some v })

/-! ### The statements of the family -/

/-- Settles O6: the bytes absorbed next are those of `UPDS`, and zero bytes are the case where the checksum is a fixed point
(rule R57). -/
theorem seedLoadsAccumulator : Obligations.SeedLoadsAccumulator := by
  refine ⟨fun v s => ⟨exec_seed v s, exec_read_computed v s, exec_read_unset s⟩, exec_upds_computed, fun n s => ?zeros,
    fun v => ⟨rfl, decode_seedWord v⟩⟩
  case zeros =>
    have hfixed : crcUpdate blockConfig 0xFFFFFFFF#32 (List.replicate n 0x00#8) = 0xFFFFFFFF#32 :=
      zeroBytesAndAllOnesSeed.1 n
    rw [exec_upds_computed, hfixed, List.length_replicate]

/-- Settles O7: the decoder answers `CLR` for the one word that encodes it. -/
theorem clrUnsetsAccumulator : Obligations.ClrUnsetsAccumulator := by
  refine ⟨fun s => ⟨exec_clr s, exec_read_unset s, exec_stat_unset s⟩, rfl, fun w => ?word⟩
  case word =>
    have hword : mkCommand 0x5#4 0#32 = 0x500000000#36 := rfl
    rw [decode_eq_instr_iff_fields rfl rfl rfl, ← mkCommand_eq_iff, hword, eq_comm]

/-- Settles O8: a word decodes only to an instruction that stands for itself, and `INIT` stands for `SEED` of zero. -/
theorem initIsSeedOfZero : Obligations.InitIsSeedOfZero := by
  refine ⟨fun s => (exec_init_eq_exec_seed s).trans (exec_seed 0x00000000#32 s), rfl, decode_seedWord 0x00000000#32,
    fun w hdecode => ?noWord⟩
  case noWord =>
    obtain ⟨-, -, hself⟩ := decode_eq_instr_iff.1 hdecode
    have hexpand : expand .init = [.seed 0x00000000#32] := rfl
    rw [hexpand, List.singleton_inj] at hself
    cases hself

end Sys2Proof.Machine
end

section
/-! SUPPORT. The command that absorbs data (42_update.md): UPD, and UPDS as its repetition. One fact is about the checksum
alone: which value a zero byte leaves as it is. A zero byte is eight bit steps, `x^8 + 1 = (x + 1)^8` over the two-element
field, and so eight steps have no more fixed points than one has. -/

namespace Sys2Proof.Machine

/-! ### The fixed points of the bit step (rule R45) -/

theorem eq_zero_of_shiftRight_one_eq_self {r : Word} (h : r >>> 1 = r) : r = 0#32 := by
  have hnat := congrArg BitVec.toNat h
  rw [BitVec.toNat_ushiftRight, Nat.shiftRight_eq_div_pow] at hnat
  apply BitVec.eq_of_toNat_eq
  rw [BitVec.toNat_ofNat]
  omega

/-- A value that the step keeps by taking in the polynomial would be `0xB6D0FDC0`, whose bit 0 is 0: the polynomial has an
even number of ones. -/
theorem eq_zero_of_stepBit_eq_self {r : Word} (h : stepBit blockConfig r = r) : r = 0#32 := by
  cases hbit : r.getLsbD 0 with
  | false =>
    rw [stepBit_of_not_bit0 hbit] at h
    exact eq_zero_of_shiftRight_one_eq_self h
  | true =>
    rw [stepBit_of_bit0 hbit] at h
    have hpoly : (0xB6D0FDC0#32 : Word) >>> 1 = 0xEDB88320#32 ^^^ 0xB6D0FDC0#32 := by decide
    have hkept : (r ^^^ 0xB6D0FDC0#32) >>> 1 = r ^^^ 0xB6D0FDC0#32 := by
      rw [BitVec.ushiftRight_xor_distrib, hpoly, ← BitVec.xor_assoc, h]
    have hvalue : r = 0xB6D0FDC0#32 := BitVec.xor_eq_zero_iff.1 (eq_zero_of_shiftRight_one_eq_self hkept)
    rw [hvalue] at hbit
    exact absurd hbit (by decide)

/-- Twice as many steps keep no more values: if `2n` steps keep `r`, then `n` steps keep the difference that `n` steps make
to it. -/
theorem stepBit_iterate_double_fixes_only_zero {n : Nat} (hn : ∀ r : Word, (stepBit blockConfig)^[n] r = r → r = 0#32)
    (r : Word) (h : (stepBit blockConfig)^[n + n] r = r) : r = 0#32 := by
  rw [Function.iterate_add_apply] at h
  have hdiff : (stepBit blockConfig)^[n] ((stepBit blockConfig)^[n] r ^^^ r) = (stepBit blockConfig)^[n] r ^^^ r := by
    rw [stepBit_iterate_xor, h, BitVec.xor_comm]
  exact hn r (BitVec.xor_eq_zero_iff.1 (hn _ hdiff))

theorem eq_zero_of_stepBit_iterate_eight_eq_self (r : Word) : (stepBit blockConfig)^[8] r = r → r = 0#32 :=
  have one : ∀ r : Word, (stepBit blockConfig)^[1] r = r → r = 0#32 := fun _ => eq_zero_of_stepBit_eq_self
  have two := stepBit_iterate_double_fixes_only_zero one
  have four := stepBit_iterate_double_fixes_only_zero two
  stepBit_iterate_double_fixes_only_zero four r

/-- A zero byte keeps exactly the checksum whose register is 0 (rule R65). -/
theorem crcByte_zero_eq_self_iff (v : Word) : crcByte blockConfig v 0x00#8 = v ↔ v = 0xFFFFFFFF#32 := by
  constructor
  · intro h
    have hsteps : (stepBit blockConfig)^[8] (v ^^^ 0xFFFFFFFF#32) = v ^^^ 0xFFFFFFFF#32 :=
      calc (stepBit blockConfig)^[8] (v ^^^ 0xFFFFFFFF#32)
          = rawByte blockConfig (v ^^^ 0xFFFFFFFF#32) 0x00#8 := by
            rw [rawByte_block]; exact congrArg _ BitVec.xor_zero.symm
        _ = crcByte blockConfig v 0x00#8 ^^^ 0xFFFFFFFF#32 := (xor_cancel_right _ _).symm
        _ = v ^^^ 0xFFFFFFFF#32 := by rw [h]
    exact BitVec.xor_eq_zero_iff.1 (eq_zero_of_stepBit_iterate_eight_eq_self _ hsteps)
  · rintro rfl
    exact zeroBytesAndAllOnesSeed.1 1

/-! ### The words of UPD (rules R32, R33) -/

/-- The 24 reserved bits written out. -/
theorem zextByte_eq_append (b : Byte) : zextByte b = 0#24 ++ b :=
  calc zextByte b = zextByte b ^^^ (0#24).setWidth 32 <<< 8 := BitVec.xor_zero.symm
    _ = (0#24 ++ b).setWidth 32 := (setWidth_append_byte 0#24 b).symm
    _ = 0#24 ++ b := BitVec.setWidth_eq _

theorem encode_upd (b : Byte) : encode (.upd b) = [0x2#4 ++ (0#24 ++ b)] := by
  rw [encode, zextByte_eq_append]
  rfl

theorem encode_upds (bs : List Byte) : encode (.upds bs) = bs.map fun b => 0x2#4 ++ (0#24 ++ b) := by
  simp only [encode, zextByte_eq_append]
  rfl

theorem decode_eq_upd_iff (w : CommandWord) (b : Byte) : decode w = .instr (.upd b) ↔ w = 0x2#4 ++ (0#24 ++ b) := by
  have hwf : WellFormed (.upd b) := rfl
  have hself : expand (.upd b) = [.upd b] := rfl
  rw [decode_eq_instr_iff, encode_upd, List.singleton_inj, and_iff_left hself, and_iff_right hwf, eq_comm]

/-- UPDS stands for UPDs, and what a word decodes to stands for itself (rule R66). -/
theorem decode_ne_upds (w : CommandWord) (bs : List Byte) : decode w ≠ .instr (.upds bs) := by
  intro h
  obtain ⟨-, -, hself⟩ := decode_eq_instr_iff.1 h
  have hmem : Instr.upds bs ∈ expand (.upds bs) := by
    rw [hself]
    exact List.mem_singleton_self _
  obtain ⟨b, -, hupd⟩ := List.mem_map.1 (show Instr.upds bs ∈ bs.map Instr.upd from hmem)
  cases hupd

/-! ### What the two commands do, in every state -/

/-- `UPD b` on `computed(v)` (rule R65). -/
theorem exec_upd_computed (b : Byte) (s : State) (v : Word) :
    exec (.upd b) { s with acc := some v }
      = .next { s with acc := some (crcByte blockConfig v b), responses := s.responses ++ [0x000000000#36] } :=
  exec_eq (.upd b) { s with acc := some v }

/-- `UPD b` on `unset` (rules R65, R91). -/
theorem exec_upd_unset (b : Byte) (s : State) :
    exec (.upd b) { s with acc := none }
      = .next { s with acc := none, responses := s.responses ++ [0x100000000#36] } :=
  exec_eq (.upd b) { s with acc := none }

/-- `UPDS` on `unset` (rules R66, R91). -/
theorem exec_upds_unset (bs : List Byte) (s : State) :
    exec (.upds bs) { s with acc := none }
      = .next { s with acc := none, responses := s.responses ++ List.replicate bs.length 0x100000000#36 } :=
  congrArg Host.Outcome.next (foldl_absorb_eq bs { s with acc := none })

/-- A split `UPDS` runs on from where its first part ends (rule R66). -/
theorem exec_upds_append {as : List Byte} {s t : State} (h : exec (.upds as) s = .next t) (bs : List Byte) :
    exec (.upds (as ++ bs)) s = exec (.upds bs) t := by
  have hfirst : as.foldl State.absorb s = t := Host.Outcome.next.inj h
  rw [← hfirst]
  exact congrArg Host.Outcome.next List.foldl_append

/-- A word that the decoder rejects poisons, and it absorbs nothing (rules R92, R96). -/
theorem step_of_reject {w : CommandWord} {why : Rejection} (h : decode w = .reject why) (acc : Option Word)
    (rest : List CommandWord) (rs : List ResponseWord) :
    step ⟨acc, false, w :: rest, rs⟩ = .next ⟨none, false, rest, rs ++ [0x200000000#36]⟩ := by
  rw [step_word, accAfterWord_of_reject h, answerToWord_of_reject h]

/-! ### The statements of the family -/

/-- Settles O9: the printed values are evaluated; the word with a stray bit is one that the decoder rejects. -/
theorem updAbsorbsOneByte : Obligations.UpdAbsorbsOneByte := by
  have hstray : decode 0x200000131#36 = .reject .updReservedBits := by decide
  exact ⟨exec_upd_computed, exec_upd_unset, encode_upd, decode_eq_upd_iff, crcByte_zero_eq_self_iff,
    fun s rest => step_of_reject hstray s.acc rest s.responses, by decide +kernel, by decide +kernel, by decide +kernel⟩

/-- Settles O10: the buffer is absorbed as one fold, which the accumulator's validity runs through unchanged. -/
theorem updsAbsorbsBuffer : Obligations.UpdsAbsorbsBuffer :=
  ⟨fun bs s c => exec_upds_computed c bs s, exec_upds_unset, fun _ bs _ _ h => exec_upds_append h bs, encode_upds,
    decode_ne_upds, by decide +kernel⟩

end Sys2Proof.Machine
end

section
/-! SUPPORT. The commands that observe the accumulator (43_observe.md): READ and STAT. Both leave it as it is; only READ
needs it valid. -/

namespace Sys2Proof.Machine

/-- `STAT` on `computed(v)` (rule R71). -/
theorem exec_stat_computed (v : Word) (s : State) :
    exec .stat { s with acc := some v }
      = .next { s with acc := some v, responses := s.responses ++ [0x000000001#36] } := by
  have hstatus : State.statusWord { s with acc := some v } = 0x00000001#32 := statusWord_of_some rfl
  rw [exec, execStat, hstatus, State.respond, mkResponse_ok_one]

/-- An instruction with one encoding, and no pseudo-instruction, is the answer for that word and no other (rules R32, R39). -/
theorem decode_eq_instr_iff_eq_word {i : Instr} {v : CommandWord} (hwf : WellFormed i) (hword : encode i = [v])
    (hself : expand i = [i]) (w : CommandWord) : decode w = .instr i ↔ w = v := by
  rw [decode_eq_instr_iff, hword, List.singleton_inj, and_iff_left hself, and_iff_right hwf, eq_comm]

/-! ### The statements of the family -/

/-- Settles O11: the two accumulator cases, and the one word of the row. -/
theorem readReturnsChecksum : Obligations.ReadReturnsChecksum :=
  have hword : encode .read = [0x300000000#36] := rfl
  ⟨fun s v => ⟨exec_read_computed v s, exec_read_unset s⟩, hword, decode_eq_instr_iff_eq_word rfl hword rfl⟩

/-- Settles O12: the status word answers in both accumulator cases, and the row has one word. -/
theorem statReturnsValid : Obligations.StatReturnsValid :=
  have hword : encode .stat = [0x400000000#36] := rfl
  ⟨fun s v => ⟨exec_stat_computed v s, exec_stat_unset s⟩, hword, decode_eq_instr_iff_eq_word rfl hword rfl⟩

end Sys2Proof.Machine
end

section
/-! SUPPORT. The synchronous host on the idle block (44_host_sequences.md): a run is the answers to its words and the
accumulator they leave, so what the host sees is a computation on lists of words. A stream kept in the block (form (a) of rule
R76) is one call, and a row of calls (form (b)) is one fold. -/

namespace Sys2Proof.Machine

/-! ### The words of one instruction, and words after words -/

@[simp] theorem accAfterWords_append (acc : Option Word) (ws vs : List CommandWord) :
    accAfterWords acc (ws ++ vs) = accAfterWords (accAfterWords acc ws) vs := List.foldl_append

@[simp] theorem answersToWords_append (acc : Option Word) (ws vs : List CommandWord) :
    answersToWords acc (ws ++ vs) = answersToWords acc ws ++ answersToWords (accAfterWords acc ws) vs := by
  induction ws generalizing acc with
  | nil => rfl
  | cons w ws ih =>
    rw [List.cons_append, answersToWords_cons, answersToWords_cons, accAfterWords_cons, ih, List.cons_append]

@[simp] theorem accAfterWords_seed (acc : Option Word) (v : Word) : accAfterWords acc (encode (.seed v)) = some v :=
  accAfterWord_of_instr (decode_seedWord v) acc

@[simp] theorem answersToWords_seed (acc : Option Word) (v : Word) :
    answersToWords acc (encode (.seed v)) = [0x000000000#36] :=
  congrArg (fun r => [r]) (answerToWord_of_instr (decode_seedWord v) acc)

@[simp] theorem accAfterWords_read (acc : Option Word) : accAfterWords acc (encode .read) = acc :=
  accAfterWord_of_instr decode_readWord acc

@[simp] theorem answersToWords_read (v : Word) : answersToWords (some v) (encode .read) = [0x0#4 ++ v] :=
  congrArg (fun r => [r]) (answerToWord_of_instr decode_readWord (some v))

@[simp] theorem accAfterWords_clr (acc : Option Word) : accAfterWords acc (encode .clr) = none :=
  accAfterWord_of_instr decode_clrWord acc

@[simp] theorem accAfterWords_upds (v : Word) (bs : List Byte) :
    accAfterWords (some v) (encode (.upds bs)) = some (crcUpdate blockConfig v bs) := by
  induction bs generalizing v with
  | nil => rfl
  | cons b bs ih =>
    have hacc : accAfterWord (some v) (mkCommand 0x2#4 (zextByte b)) = some (crcByte blockConfig v b) :=
      accAfterWord_of_instr (decode_updWord b) (some v)
    exact (congrArg (accAfterWords · (encode (.upds bs))) hacc).trans (ih _)

@[simp] theorem answersToWords_upds (v : Word) (bs : List Byte) :
    answersToWords (some v) (encode (.upds bs)) = List.replicate bs.length 0x000000000#36 := by
  induction bs generalizing v with
  | nil => rfl
  | cons b bs ih =>
    have hacc : accAfterWord (some v) (mkCommand 0x2#4 (zextByte b)) = some (crcByte blockConfig v b) :=
      accAfterWord_of_instr (decode_updWord b) (some v)
    have hanswer : answerToWord (some v) (mkCommand 0x2#4 (zextByte b)) = 0x000000000#36 :=
      answerToWord_of_instr (decode_updWord b) (some v)
    rw [show encode (.upds (b :: bs)) = mkCommand 0x2#4 (zextByte b) :: encode (.upds bs) from rfl, answersToWords_cons,
      hacc, hanswer, ih]
    rfl

/-! ### Runs of the host -/

/-- One exchange on the idle block. -/
theorem transact_of_idle (acc : Option Word) (w : CommandWord) :
    transact ⟨acc, false, [], []⟩ w = some (answerToWord acc w, ⟨accAfterWord acc w, false, [], []⟩) := by
  have haccept : State.acceptCommand ⟨acc, false, [], []⟩ w = ⟨acc, false, [w], []⟩ := rfl
  rw [transact, haccept, step_word]
  rfl

/-- A run on the idle block: every word is answered, and the block is idle again (rule R116). -/
theorem converse_of_idle (acc : Option Word) (ws : List CommandWord) :
    converse ⟨acc, false, [], []⟩ ws = some (answersToWords acc ws, ⟨accAfterWords acc ws, false, [], []⟩) := by
  induction ws generalizing acc with
  | nil => rfl
  | cons w ws ih =>
    simp only [converse, transact_of_idle, ih]
    rfl

/-- The call from any accumulator of the idle block (rule R75). -/
theorem converse_callWords (acc : Option Word) (seed : Word) (buf : List Byte) :
    converse ⟨acc, false, [], []⟩ (callWords seed buf)
      = some (List.replicate (buf.length + 1) 0x000000000#36 ++ [0x0#4 ++ crcUpdate blockConfig seed buf],
          ⟨some (crcUpdate blockConfig seed buf), false, [], []⟩) := by
  rw [converse_of_idle]
  simp [callWords, List.replicate_succ]

/-- The host takes an OK response for the checksum it carries (rules R70, R80). -/
theorem responseChecksum_ok (v : Word) : responseChecksum (0x0#4 ++ v) = some v := by
  have hstatus : rwStatus (0x0#4 ++ v) = 0x0#4 := rwStatus_mkResponse 0x0#4 v
  have hdata : rwData (0x0#4 ++ v) = v := rwData_mkResponse 0x0#4 v
  rw [responseChecksum, hstatus, hdata]
  rfl

/-- The call returns the checksum (rules R2, R75). -/
theorem callBlock_of_idle (acc : Option Word) (seed : Word) (buf : List Byte) :
    callBlock ⟨acc, false, [], []⟩ seed buf
      = some (crcUpdate blockConfig seed buf, ⟨some (crcUpdate blockConfig seed buf), false, [], []⟩) := by
  simp only [callBlock, converse_callWords, List.getLast?_concat, Option.bind_some, responseChecksum_ok]

/-! ### A stream in pieces (rule R76) -/

/-- The words of the bytes do not show where one piece ends. -/
theorem flatMap_encode_upds (pieces : List (List Byte)) :
    pieces.flatMap (fun a => encode (.upds a)) = encode (.upds pieces.flatten) := by
  simp [encode, List.flatMap_def, List.map_flatten]

/-- Form (a) is one call with the fresh seed. -/
theorem streamWords_eq_callWords (pieces : List (List Byte)) : streamWords pieces = callWords freshSeed pieces.flatten := by
  rw [streamWords, flatMap_encode_upds]
  rfl

/-- Form (b): each call goes on from the checksum the one before returned. -/
theorem chainCalls_of_idle (acc : Option Word) (c : Word) (pieces : List (List Byte)) :
    ∃ acc' : Option Word, chainCalls ⟨acc, false, [], []⟩ c pieces
      = some (crcUpdate blockConfig c pieces.flatten, ⟨acc', false, [], []⟩) := by
  induction pieces generalizing acc c with
  | nil => exact ⟨acc, rfl⟩
  | cons a pieces ih =>
    obtain ⟨acc', hrest⟩ := ih (some (crcUpdate blockConfig c a)) (crcUpdate blockConfig c a)
    refine ⟨acc', ?_⟩
    simp only [chainCalls, callBlock_of_idle, hrest, List.flatten_cons, crcUpdate_append]

/-- Form (a) on the idle block: the last response is the checksum of the pieces joined. -/
theorem converse_streamWords (acc : Option Word) (pieces : List (List Byte)) :
    ∃ rs : List ResponseWord, converse ⟨acc, false, [], []⟩ (streamWords pieces)
      = some (rs ++ [0x0#4 ++ crcUpdate blockConfig 0#32 pieces.flatten],
          ⟨some (crcUpdate blockConfig 0#32 pieces.flatten), false, [], []⟩) := by
  rw [streamWords_eq_callWords]
  exact ⟨_, converse_callWords acc freshSeed pieces.flatten⟩

/-- Settles O42: form (a) is one call, form (b) a row of calls. -/
theorem bothWaysOfStreamingAgree : Obligations.BothWaysOfStreamingAgree :=
  fun acc pieces => ⟨converse_streamWords acc pieces, chainCalls_of_idle acc 0#32 pieces⟩

/-- Settles O49: the words in between go on from READ's accumulator, and SEED does not look at what they leave. -/
theorem suspendResumeRestores : Obligations.SuspendResumeRestores := by
  intro s v between rest
  have hlength : (suspendResumeWords v between).length = between.length + 2 := by simp [suspendResumeWords, encode]
  have hrun := runSteps_words (suspendResumeWords v between) rest (some v) s.responses
  rw [hlength] at hrun
  refine ⟨_, answersToWords (some v) between ++ [0x000000000#36], hrun, ?acc, rfl, rfl, ?count, ?responses⟩
  case acc => simp [suspendResumeWords]
  case count => simp
  case responses => simp [suspendResumeWords]

/-- The partial fingerprint's bytes where `size` is the file's length (rule R77). -/
theorem partialBytes_length (p : Nat) (file : List Byte) : partialBytes p file.length file = file.take p := by
  rw [partialBytes, Nat.min_comm, ← List.take_take, List.take_length]

/-- The full fingerprint's bytes where `size` is the file's length (rule R78). -/
theorem fullBytes_length (file : List Byte) : fullBytes file.length file = file := List.take_length

/-- Settles O57: the early READ leaves the accumulator, so the rest of the file goes on from the partial fingerprint. -/
theorem onePassGivesBothFingerprints : Obligations.OnePassGivesBothFingerprints := by
  intro acc p file
  have hfull : crcUpdate blockConfig (crcUpdate blockConfig 0#32 (file.take p)) (file.drop p)
      = crcUpdate blockConfig 0#32 file := by
    rw [← crcUpdate_append, List.take_append_drop]
  have hinit : encode .init = encode (.seed 0#32) := rfl
  rw [converse_of_idle, onePassWords, partialBytes_length, fullBytes_length, hinit]
  simp [hfull, List.replicate_succ, Nat.min_comm p]

end Sys2Proof.Machine
end

section
/-! SUPPORT. One fingerprint (44_host_sequences.md rules R77 to R81, R86): the chunks of a reading, the words it makes the host
present, its value, and what the host records. On an idle block the value depends on the bytes and on whether the reading
failed, and the accumulator it leaves is that value. -/

namespace Sys2Proof.Machine

/-! ### The chunks of a reading (rules R78, R81) -/

/-- Every read gives at least one byte, so as many reads as there are bytes give them all, for every `P`. -/
theorem readChunks_flatten (p k : Nat) (lengths : List Nat) (bytes : List Byte) (hk : bytes.length ≤ k) :
    (readChunks p k lengths bytes).flatten = bytes := by
  induction k generalizing lengths bytes with
  | zero =>
    rw [List.length_eq_zero_iff.1 (Nat.le_zero.1 hk)]
    rfl
  | succ k ih =>
    cases bytes with
    | nil => rfl
    | cons b bs =>
      rw [List.length_cons] at hk
      have hshorter : ((b :: bs).drop (max 1 (min (lengths.headD p) p))).length ≤ k := by
        rw [List.length_drop, List.length_cons]
        omega
      rw [readChunks, List.flatten_cons, ih _ _ hshorter, List.take_append_drop]

theorem length_le_of_mem_readChunks {p : Nat} (hp : 0 < p) (k : Nat) (lengths : List Nat) (bytes : List Byte) :
    ∀ c ∈ readChunks p k lengths bytes, c.length ≤ p := by
  induction k generalizing lengths bytes with
  | zero => exact fun c hc => absurd hc List.not_mem_nil
  | succ k ih =>
    cases bytes with
    | nil => exact fun c hc => absurd hc List.not_mem_nil
    | cons b bs =>
      intro c hc
      rw [readChunks] at hc
      obtain rfl | hrest := List.mem_cons.1 hc
      · have htake := List.length_take_le (max 1 (min (lengths.headD p) p)) (b :: bs)
        omega
      · exact ih _ _ c hrest

/-- Chunks as the reads may give them are what the reads of their lengths give. -/
theorem readChunks_lengths {p : Nat} (chunks : List (List Byte)) (hchunks : ∀ c ∈ chunks, c ≠ [] ∧ c.length ≤ p) (k : Nat)
    (hk : chunks.flatten.length ≤ k) : readChunks p k (chunks.map List.length) chunks.flatten = chunks := by
  induction chunks generalizing k with
  | nil => cases k <;> rfl
  | cons c chunks ih =>
    obtain ⟨⟨hne, hle⟩, hrest⟩ := List.forall_mem_cons.1 hchunks
    obtain ⟨b, bs, rfl⟩ := List.exists_cons_of_ne_nil hne
    rw [List.flatten_cons, List.length_append, List.length_cons] at hk
    rw [List.length_cons] at hle
    obtain ⟨k, rfl⟩ : ∃ j, k = j + 1 := ⟨k - 1, by omega⟩
    have hlen : max 1 (min (bs.length + 1) p) = (b :: bs).length := by rw [List.length_cons]; omega
    rw [List.flatten_cons, List.cons_append, readChunks, List.map_cons, List.headD_cons, List.tail_cons, List.length_cons,
      hlen, ← List.cons_append, List.take_left, List.drop_left, ih hrest k (by omega)]

/-- A reading's chunks joined are the bytes (rule R81). -/
@[simp] theorem chunksOf_flatten (p : Nat) (lengths : List Nat) (bytes : List Byte) :
    (chunksOf p lengths bytes).flatten = bytes :=
  readChunks_flatten p bytes.length lengths bytes le_rfl

/-- A fingerprint is one call with the fresh seed, however it is read (rules R75, R77, R78). -/
theorem fingerprintWords_complete (p : Nat) (bytes : List Byte) (lengths : List Nat) :
    fingerprintWords p bytes (.complete lengths) = callWords freshSeed bytes := by
  rw [fingerprintWords, streamWords_eq_callWords, chunksOf_flatten]

/-- Settles O56: the chunks, every possible row of them, and the words of the one call. -/
theorem hostReadsInOrderAndMixesNothingIn : Obligations.HostReadsInOrderAndMixesNothingIn := by
  refine ⟨fun p lengths bytes hp => ⟨chunksOf_flatten p lengths bytes, length_le_of_mem_readChunks hp _ lengths bytes⟩,
    fun p chunks hchunks => readChunks_lengths chunks hchunks _ le_rfl, fun p lengths bytes => ?words⟩
  case words =>
    rw [fingerprintWords_complete, callWords, encode_upds]
    rfl

/-! ### The value of a fingerprint -/

/-- What a reading of `bytes` gives the host: their checksum from the fresh seed, or nothing where it failed. -/
def FileRead.value (bytes : List Byte) : FileRead → Option Word
  | .complete _ => some (crcUpdate blockConfig freshSeed bytes)
  | .failed _ _ => none

/-- The reports of a read failure that a reading causes (rule R79). -/
def FileRead.reports : FileRead → Nat
  | .complete _ => 0
  | .failed _ _ => 1

/-- A fingerprint on the idle block: READ leaves its value in the accumulator, and CLR leaves none (rule R79). -/
theorem fingerprint_of_idle (acc : Option Word) (p : Nat) (bytes : List Byte) (rd : FileRead) :
    fingerprint p ⟨acc, false, [], []⟩ bytes rd = some (rd.value bytes, ⟨rd.value bytes, false, [], []⟩) := by
  cases rd with
  | complete lengths =>
    simp only [fingerprint, fingerprintWords_complete, converse_callWords, List.getLast?_concat, Option.bind_some,
      responseChecksum_ok, FileRead.value]
  | failed after lengths =>
    simp only [fingerprint, converse_of_idle, fingerprintWords, accAfterWords_append, accAfterWords_clr, FileRead.value]

/-- Settles O43: a fingerprint's value is that of a reading that succeeds; a chunking is a stream in pieces. -/
theorem fingerprintsAreChecksums : Obligations.FingerprintsAreChecksums := by
  refine ⟨fun acc p lengths file => ⟨?whole, ?start⟩, fun acc p chunks file ⟨hfile, _⟩ => ?chunked⟩
  case whole =>
    rw [fullBytes_length]
    exact fingerprint_of_idle acc p file (.complete lengths)
  case start =>
    rw [partialBytes_length]
    exact fingerprint_of_idle acc p (file.take p) (.complete lengths)
  case chunked =>
    rw [← hfile]
    exact bothWaysOfStreamingAgree acc chunks

/-- An idle block is its accumulator. -/
theorem eq_of_idle {s : State} (hidle : s.Idle) : s = ⟨s.acc, false, [], []⟩ := by
  obtain ⟨acc, rst, commands, responses⟩ := s
  obtain ⟨rfl, rfl, rfl⟩ := hidle
  rfl

/-- An attempt of a host whose block is idle (rule R79). -/
theorem attempt_of_idle {h : HostState} (hidle : h.block.Idle) (p : Nat) (bytes : List Byte) (rd : FileRead) :
    attempt p h bytes rd = (rd.value bytes, ⟨⟨rd.value bytes, false, [], []⟩, h.failureReports + rd.reports⟩) := by
  rw [attempt, eq_of_idle hidle, fingerprint_of_idle]
  cases rd <;> rfl

/-! ### What the host records (rules R79, R80, R86) -/

/-- A partial fingerprint that is there (rule R80). -/
theorem ensurePartial_of_cached {f : HostFile} {v : Word} (hcached : f.record.crcPartial = some v) (p : Nat)
    (h : HostState) : ensurePartial p h f = (f.record, h) := by
  rw [ensurePartial, hcached]

/-- A partial fingerprint that is absent (rules R79, R82). -/
theorem ensurePartial_of_absent {f : HostFile} {h : HostState} (habsent : f.record.crcPartial = none)
    (hidle : h.block.Idle) (p : Nat) :
    ensurePartial p h f
      = (recordPartial p f.record (f.partialRead.value (f.partialData p)),
          ⟨⟨f.partialRead.value (f.partialData p), false, [], []⟩, h.failureReports + f.partialRead.reports⟩) := by
  rw [ensurePartial, habsent, attempt_of_idle hidle]

/-- A full fingerprint that is there (rule R80). -/
theorem ensureFull_of_cached {f : HostFile} {v : Word} (hcached : f.record.crcFull = some v) (p : Nat)
    (h : HostState) : ensureFull p h f = (f.record, h) := by
  rw [ensureFull, hcached]

/-- A full fingerprint that is absent (rules R79, R82). -/
theorem ensureFull_of_absent {f : HostFile} {h : HostState} (habsent : f.record.crcFull = none)
    (hidle : h.block.Idle) (p : Nat) :
    ensureFull p h f
      = (recordFull f.record (f.fullRead.value f.fullData),
          ⟨⟨f.fullRead.value f.fullData, false, [], []⟩, h.failureReports + f.fullRead.reports⟩) := by
  rw [ensureFull, habsent, attempt_of_idle hidle]

/-- Settles O46: the fingerprint is there, so no attempt is made. -/
theorem cachedFingerprintIsKept : Obligations.CachedFingerprintIsKept :=
  fun h p _ _ _ _ => ⟨ensurePartial_of_cached rfl p h, ensureFull_of_cached rfl p h⟩

/-- Settles O44: a reading that failed has no value and one report. -/
theorem failedFingerprintRecordsNothing : Obligations.FailedFingerprintRecordsNothing :=
  fun acc _ _ _ p _ after lengths bytes _ _ =>
    ⟨fingerprint_of_idle acc p bytes (.failed after lengths), ensurePartial_of_absent rfl ⟨rfl, rfl, rfl⟩ p,
      ensureFull_of_absent rfl ⟨rfl, rfl, rfl⟩ p⟩

/-- Settles O45: a file of at most `P` bytes is its own first `P` bytes. -/
theorem shortFileFillsBoth : Obligations.ShortFileFillsBoth := by
  intro acc full n p file lengths other
  rw [ensurePartial_of_absent rfl ⟨rfl, rfl, rfl⟩, HostFile.partialData, partialBytes_length]
  split
  · next hshort => simp [recordPartial, FileRead.value, hshort, List.take_of_length_le hshort]
  · next hlong => simp [recordPartial, FileRead.value, hlong]

/-- Settles O53: a reading that succeeds, of all the bytes of the file. -/
theorem fullFingerprintIsRecorded : Obligations.FullFingerprintIsRecorded := by
  intro acc part n p file lengths other
  rw [ensureFull_of_absent rfl ⟨rfl, rfl, rfl⟩, HostFile.fullData, fullBytes_length]
  rfl

end Sys2Proof.Machine
end

section
/-! SUPPORT. The match oracle (44_host_sequences.md rules R81 to R83): two tiers, each ensuring one fingerprint of both files.
A faithful record stays so and the block stays idle through each of them, so that after a tier a fingerprint is there exactly
where it was there or could be read, and it is then the checksum of the file's bytes. -/

namespace Sys2Proof.Machine

/-! ### A file after one fingerprint was ensured -/

/-- The file with the record that ensuring its partial fingerprint leaves. -/
def HostFile.withPartial (p : Nat) (h : HostState) (f : HostFile) : HostFile :=
  { f with record := (ensurePartial p h f).1 }

/-- The file with the record that ensuring its full fingerprint leaves. -/
def HostFile.withFull (p : Nat) (h : HostState) (f : HostFile) : HostFile := { f with record := (ensureFull p h f).1 }

/-- Ensuring the partial fingerprint changes the record only where it is absent and the reading succeeds. -/
theorem withPartial_eq {h : HostState} (hidle : h.block.Idle) (p : Nat) (f : HostFile) :
    f.withPartial p h
      = if f.record.crcPartial.isNone && f.partialRead.succeeds then
          { f with record := recordPartial p f.record (some (crcUpdate blockConfig freshSeed (f.partialData p))) }
        else f := by
  obtain ⟨content, ⟨size, part, full⟩, partialRead, fullRead⟩ := f
  cases part with
  | some v => rfl
  | none =>
    rw [HostFile.withPartial, ensurePartial_of_absent rfl hidle]
    cases partialRead <;> rfl

/-- Ensuring the full fingerprint, likewise. -/
theorem withFull_eq {h : HostState} (hidle : h.block.Idle) (p : Nat) (f : HostFile) :
    f.withFull p h
      = if f.record.crcFull.isNone && f.fullRead.succeeds then
          { f with record := recordFull f.record (some (crcUpdate blockConfig freshSeed f.fullData)) }
        else f := by
  obtain ⟨content, ⟨size, part, full⟩, partialRead, fullRead⟩ := f
  cases full with
  | some v => rfl
  | none =>
    rw [HostFile.withFull, ensureFull_of_absent rfl hidle]
    cases fullRead <;> rfl

/-- The block is idle again, whether it was used or not. -/
theorem ensurePartial_idle {h : HostState} (hidle : h.block.Idle) (p : Nat) (f : HostFile) :
    (ensurePartial p h f).2.block.Idle := by
  cases hpart : f.record.crcPartial with
  | some v => rwa [ensurePartial_of_cached hpart]
  | none => rw [ensurePartial_of_absent hpart hidle]; exact ⟨rfl, rfl, rfl⟩

theorem ensureFull_idle {h : HostState} (hidle : h.block.Idle) (p : Nat) (f : HostFile) :
    (ensureFull p h f).2.block.Idle := by
  cases hfull : f.record.crcFull with
  | some v => rwa [ensureFull_of_cached hfull]
  | none => rw [ensureFull_of_absent hfull hidle]; exact ⟨rfl, rfl, rfl⟩

/-- Recording the partial fingerprint of a file keeps its record faithful; by the short-file rule the full one is then of the
same bytes (rule R86). -/
theorem recordPartial_faithful {p : Nat} {f : HostFile} (hf : f.Faithful p) :
    HostFile.Faithful p
      { f with record := recordPartial p f.record (some (crcUpdate blockConfig freshSeed (f.partialData p))) } := by
  obtain ⟨-, hfull⟩ := hf
  refine ⟨fun v hv => (Option.some.inj hv).symm, fun v hv => ?_⟩
  rw [recordPartial_some_crcFull] at hv
  split at hv
  · next hshort => exact (Option.some.inj hv).symm.trans (by rw [partialData_eq_fullData hshort]; rfl)
  · exact hfull v hv

theorem recordFull_faithful {p : Nat} {f : HostFile} (hf : f.Faithful p) :
    HostFile.Faithful p
      { f with record := recordFull f.record (some (crcUpdate blockConfig freshSeed f.fullData)) } := by
  obtain ⟨hpart, -⟩ := hf
  exact ⟨hpart, fun v hv => (Option.some.inj hv).symm⟩

theorem withPartial_faithful {p : Nat} {f : HostFile} {h : HostState} (hidle : h.block.Idle) (hf : f.Faithful p) :
    (f.withPartial p h).Faithful p := by
  rw [withPartial_eq hidle]
  split
  · exact recordPartial_faithful hf
  · exact hf

theorem withFull_faithful {p : Nat} {f : HostFile} {h : HostState} (hidle : h.block.Idle) (hf : f.Faithful p) :
    (f.withFull p h).Faithful p := by
  rw [withFull_eq hidle]
  split
  · exact recordFull_faithful hf
  · exact hf

/-! ### Which fingerprints are there afterwards -/

/-- A fingerprint that was there, or that was absent and whose reading succeeds. -/
theorem isSome_or_eq_of_not_computed {x : Option Word} {succeeds : Bool} (h : ¬(x.isNone && succeeds) = true) :
    x.isSome = (x.isSome || succeeds) := by
  cases x with
  | some v => rfl
  | none => simpa using h

/-- The partial fingerprint is there exactly if it was there or could be read. -/
theorem withPartial_crcPartial_isSome {h : HostState} (hidle : h.block.Idle) (p : Nat) (f : HostFile) :
    (f.withPartial p h).record.crcPartial.isSome = f.partialReadable := by
  rw [withPartial_eq hidle, HostFile.partialReadable]
  split
  · next hcomputed =>
    obtain ⟨-, hread⟩ := Bool.and_eq_true_iff.1 hcomputed
    rw [hread, Bool.or_true]
    rfl
  · next hkept => exact isSome_or_eq_of_not_computed hkept

/-- Ensuring the partial fingerprint fills the full one only by the short-file rule (rule R86). -/
theorem withPartial_crcFull_isSome {h : HostState} (hidle : h.block.Idle) (p : Nat) (f : HostFile) :
    (f.withPartial p h).record.crcFull.isSome
      = (f.record.crcFull.isSome
          || (f.record.crcPartial.isNone && f.partialRead.succeeds && decide (f.record.size ≤ p))) := by
  rw [withPartial_eq hidle]
  split
  · next hcomputed =>
    rw [recordPartial_some_crcFull, hcomputed]
    split
    · next hshort => simp [hshort]
    · next hlong => simp [hlong]
  · next hkept => simp [hkept]

theorem withFull_crcFull_isSome {h : HostState} (hidle : h.block.Idle) (p : Nat) (f : HostFile) :
    (f.withFull p h).record.crcFull.isSome = (f.record.crcFull.isSome || f.fullRead.succeeds) := by
  rw [withFull_eq hidle]
  split
  · next hcomputed =>
    obtain ⟨-, hread⟩ := Bool.and_eq_true_iff.1 hcomputed
    rw [hread, Bool.or_true]
    rfl
  · next hkept => exact isSome_or_eq_of_not_computed hkept

/-- After both tiers the full fingerprint is there exactly if it was there, could be read, or the short-file rule filled it. -/
theorem withFull_withPartial_crcFull_isSome {h h' : HostState} (hidle : h.block.Idle) (hidle' : h'.block.Idle) (p : Nat)
    (f : HostFile) : ((f.withPartial p h).withFull p h').record.crcFull.isSome = f.fullReadable p := by
  have hread : (f.withPartial p h).fullRead = f.fullRead := rfl
  rw [withFull_crcFull_isSome hidle', withPartial_crcFull_isSome hidle, hread, HostFile.fullReadable, Bool.or_right_comm]

/-- The bytes of the fingerprints stay those of the file, since the record keeps its size. -/
theorem withPartial_size {h : HostState} (hidle : h.block.Idle) (p : Nat) (f : HostFile) :
    (f.withPartial p h).record.size = f.record.size := by
  rw [withPartial_eq hidle]
  split <;> rfl

theorem withFull_size {h : HostState} (hidle : h.block.Idle) (p : Nat) (f : HostFile) :
    (f.withFull p h).record.size = f.record.size := by
  rw [withFull_eq hidle]
  split <;> rfl

theorem withPartial_partialData {h : HostState} (hidle : h.block.Idle) (p : Nat) (f : HostFile) :
    (f.withPartial p h).partialData p = f.partialData p :=
  congrArg (partialBytes p · f.content) (withPartial_size hidle p f)

theorem withFull_withPartial_fullData {h h' : HostState} (hidle : h.block.Idle) (hidle' : h'.block.Idle) (p : Nat)
    (f : HostFile) : ((f.withPartial p h).withFull p h').fullData = f.fullData :=
  congrArg (fullBytes · f.content) ((withFull_size hidle' p _).trans (withPartial_size hidle p f))

/-! ### The oracle, tier by tier -/

/-- Both files after a tier, and the host. -/
structure OracleTier where
  /-- The first file. -/
  first : HostFile
  /-- The second file. -/
  second : HostFile
  /-- The host. -/
  host : HostState

/-- The tier of the partial fingerprints (rule R82). -/
def partialTier (p : Nat) (h : HostState) (a b : HostFile) : OracleTier where
  first := a.withPartial p h
  second := b.withPartial p (ensurePartial p h a).2
  host := (ensurePartial p (ensurePartial p h a).2 b).2

/-- The tier of the full fingerprints (rule R82). -/
def fullTier (p : Nat) (t : OracleTier) : OracleTier where
  first := t.first.withFull p t.host
  second := t.second.withFull p (ensureFull p t.host t.first).2
  host := (ensureFull p (ensureFull p t.host t.first).2 t.second).2

/-- The partial fingerprints agree after their tier. -/
def partialTierEqual (p : Nat) (h : HostState) (a b : HostFile) : Bool :=
  tierEqual (partialTier p h a b).first.record.crcPartial (partialTier p h a b).second.record.crcPartial

/-- The full fingerprints agree after theirs. -/
def fullTierEqual (p : Nat) (h : HostState) (a b : HostFile) : Bool :=
  tierEqual (fullTier p (partialTier p h a b)).first.record.crcFull
    (fullTier p (partialTier p h a b)).second.record.crcFull

/-- What the oracle answers where it stops after this tier. -/
def OracleTier.answer (v : Verdict) (t : OracleTier) : Verdict × FileRecord × FileRecord × HostState :=
  (v, t.first.record, t.second.record, t.host)

/-- The oracle on an empty first file (rule R83). -/
theorem matchOracle_of_empty {a : HostFile} (hsize : a.record.size = 0) (p : Nat) (h : HostState) (b : HostFile) :
    matchOracle p h a b = (.equal, a.record, b.record, h) := if_pos hsize

/-- The oracle on a file that is not empty (rule R82). -/
theorem matchOracle_of_nonempty {a : HostFile} (hsize : a.record.size ≠ 0) (p : Nat) (h : HostState) (b : HostFile) :
    matchOracle p h a b
      = if partialTierEqual p h a b = true then
          if fullTierEqual p h a b = true then (fullTier p (partialTier p h a b)).answer .compareBytes
          else (fullTier p (partialTier p h a b)).answer .different
        else (partialTier p h a b).answer .different := if_neg hsize

/-- Settles O47: the size is looked at before anything else. -/
theorem emptyFilesAreEqual : Obligations.EmptyFilesAreEqual := fun p h _ b hsize => matchOracle_of_empty hsize p h b

/-! ### Reproducibility (rule R81) -/

/-- What every tier keeps: both records are functions of file content, and the block is idle. -/
structure OracleTier.Sound (p : Nat) (t : OracleTier) : Prop where
  first : t.first.Faithful p
  second : t.second.Faithful p
  idle : t.host.block.Idle

theorem partialTier_sound {p : Nat} {h : HostState} {a b : HostFile} (hidle : h.block.Idle) (ha : a.Faithful p)
    (hb : b.Faithful p) : (partialTier p h a b).Sound p :=
  have hidle1 := ensurePartial_idle hidle p a
  ⟨withPartial_faithful hidle ha, withPartial_faithful hidle1 hb, ensurePartial_idle hidle1 p b⟩

theorem fullTier_sound {p : Nat} {t : OracleTier} (ht : t.Sound p) : (fullTier p t).Sound p :=
  have hidle1 := ensureFull_idle ht.idle p t.first
  ⟨withFull_faithful ht.idle ht.first, withFull_faithful hidle1 ht.second, ensureFull_idle hidle1 p t.second⟩

/-- The oracle leaves the records and the host as they were or as one of its tiers leaves them. -/
theorem matchOracle_cases (p : Nat) (h : HostState) (a b : HostFile) :
    (matchOracle p h a b).2 = (a.record, b.record, h)
    ∨ ∃ (t : OracleTier) (v : Verdict), (t = partialTier p h a b ∨ t = fullTier p (partialTier p h a b))
        ∧ matchOracle p h a b = t.answer v := by
  by_cases hsize : a.record.size = 0
  · exact .inl (by rw [matchOracle_of_empty hsize])
  · rw [matchOracle_of_nonempty hsize]
    split
    · split
      · exact .inr ⟨_, _, .inr rfl, rfl⟩
      · exact .inr ⟨_, _, .inr rfl, rfl⟩
    · exact .inr ⟨_, _, .inl rfl, rfl⟩

/-- Settles O55: the oracle's records are those of a tier. -/
theorem recordsStayFaithful : Obligations.RecordsStayFaithful := by
  intro acc n p a b ha hb
  have hidle : (HostState.mk ⟨acc, false, [], []⟩ n).block.Idle := ⟨rfl, rfl, rfl⟩
  refine ⟨⟨withPartial_faithful hidle ha, ensurePartial_idle hidle p a⟩,
    ⟨withFull_faithful hidle ha, ensureFull_idle hidle p a⟩, ?oracle⟩
  case oracle =>
    obtain h | ⟨t, v, ht, h⟩ := matchOracle_cases p ⟨⟨acc, false, [], []⟩, n⟩ a b
    · rw [h]
      exact ⟨ha, hb, hidle⟩
    · rw [h]
      have hpartial := partialTier_sound hidle ha hb
      obtain rfl | rfl := ht
      · exact ⟨hpartial.first, hpartial.second, hpartial.idle⟩
      · have hfull := fullTier_sound hpartial
        exact ⟨hfull.first, hfull.second, hfull.idle⟩

/-! ### The verdict (rule R82) -/

/-- Two fingerprints that can each only be one value agree if both are there and the values are equal. -/
theorem tierEqual_iff {x y : Option Word} {u v : Word} (hx : ∀ w, x = some w → w = u) (hy : ∀ w, y = some w → w = v) :
    tierEqual x y = true ↔ x.isSome = true ∧ y.isSome = true ∧ u = v := by
  cases x with
  | none => cases y <;> simp [tierEqual]
  | some w =>
    cases y with
    | none => simp [tierEqual]
    | some w' => simp [tierEqual, ← hx w rfl, ← hy w' rfl]

theorem partialTierEqual_iff {p : Nat} {h : HostState} {a b : HostFile} (hidle : h.block.Idle) (ha : a.Faithful p)
    (hb : b.Faithful p) :
    partialTierEqual p h a b = true ↔ a.partialReadable = true ∧ b.partialReadable = true
      ∧ crcUpdate blockConfig 0#32 (a.partialData p) = crcUpdate blockConfig 0#32 (b.partialData p) := by
  have hidle1 := ensurePartial_idle hidle p a
  obtain ⟨⟨hfirst, -⟩, ⟨hsecond, -⟩, -⟩ := partialTier_sound hidle ha hb
  rw [partialTierEqual, tierEqual_iff hfirst hsecond]
  simp only [partialTier, withPartial_crcPartial_isSome hidle, withPartial_crcPartial_isSome hidle1,
    withPartial_partialData hidle, withPartial_partialData hidle1]

theorem fullTierEqual_iff {p : Nat} {h : HostState} {a b : HostFile} (hidle : h.block.Idle) (ha : a.Faithful p)
    (hb : b.Faithful p) :
    fullTierEqual p h a b = true ↔ a.fullReadable p = true ∧ b.fullReadable p = true
      ∧ crcUpdate blockConfig 0#32 a.fullData = crcUpdate blockConfig 0#32 b.fullData := by
  have hidle1 := ensurePartial_idle hidle p a
  have hidle2 := ensurePartial_idle hidle1 p b
  have hidle3 := ensureFull_idle hidle2 p (a.withPartial p h)
  obtain ⟨⟨-, hfirst⟩, ⟨-, hsecond⟩, -⟩ := fullTier_sound (partialTier_sound hidle ha hb)
  rw [fullTierEqual, tierEqual_iff hfirst hsecond]
  simp only [fullTier, partialTier, withFull_withPartial_crcFull_isSome hidle hidle2,
    withFull_withPartial_crcFull_isSome hidle1 hidle3, withFull_withPartial_fullData hidle hidle2,
    withFull_withPartial_fullData hidle1 hidle3]

/-- The oracle comes to its byte compare exactly if both tiers agree. -/
theorem matchOracle_verdict {a : HostFile} (hsize : a.record.size ≠ 0) (p : Nat) (h : HostState) (b : HostFile) :
    (matchOracle p h a b).1
      = if partialTierEqual p h a b = true ∧ fullTierEqual p h a b = true then .compareBytes else .different := by
  rw [matchOracle_of_nonempty hsize]
  cases partialTierEqual p h a b with
  | false => rfl
  | true => cases fullTierEqual p h a b <;> rfl

/-- Settles O54: each tier by the fingerprints that are there after it. -/
theorem oracleDecidesByFingerprints : Obligations.OracleDecidesByFingerprints := by
  intro acc n p a b hsize ha hb
  have hidle : (HostState.mk ⟨acc, false, [], []⟩ n).block.Idle := ⟨rfl, rfl, rfl⟩
  rw [matchOracle_verdict hsize]
  refine if_congr ?_ rfl rfl
  rw [partialTierEqual_iff hidle ha hb, fullTierEqual_iff hidle ha hb, and_assoc, and_assoc]

/-- Settles O48: files of the same content and size have the same fingerprints, so the rule of O54 comes to the byte
compare. -/
theorem oracleNeverSeparatesEqualFiles : Obligations.OracleNeverSeparatesEqualFiles := by
  intro acc n p a b hcontent hne hasize hbsize ha hb hapart hbpart hafull hbfull
  have hsize : a.record.size = b.record.size := by rw [hasize, hbsize, hcontent]
  have hnonempty : a.record.size ≠ 0 := by rwa [hasize, Ne, List.length_eq_zero_iff]
  have hpartialData : a.partialData p = b.partialData p := by
    rw [HostFile.partialData, HostFile.partialData, hsize, hcontent]
  have hfullData : a.fullData = b.fullData := by rw [HostFile.fullData, HostFile.fullData, hsize, hcontent]
  rw [oracleDecidesByFingerprints acc n p a b hnonempty ha hb, hpartialData, hfullData]
  exact if_pos ⟨hapart, hbpart, rfl, hafull, hbfull, rfl⟩

end Sys2Proof.Machine
end

section
/-! SUPPORT. The two errors (60_exceptions.md): which word raises which, in every state, and the way out of them. An illegal
word is one accumulator and one answer, whatever the accumulator was; ERR_UNSET is the answer to READ and UPD only. Behind an
illegal word the accumulator stays unset until SEED. -/

namespace Sys2Proof.Machine

/-! ### Error entry (rule R96) -/

/-- Settles O19: error entry as one record, with each error's response word. -/
theorem errorEntryPoisons : Obligations.ErrorEntryPoisons := by
  intro s
  constructor
  · rw [raise_eq, errorStatus, mkResponse_errUnset]
  · rw [raise_eq, errorStatus, mkResponse_errIllegal]

/-- Settles O13: the meaning of each of the three rows is error entry. -/
theorem reservedOpcodesPoison : Obligations.ReservedOpcodesPoison := by
  intro op arg s
  have hentry : Host.Outcome.next (s.raise .illegalCommand)
      = (.next { s with acc := none, responses := s.responses ++ [0x200000000#36] } : Host.Outcome State Fault Refusal) :=
    congrArg Host.Outcome.next (errorEntryPoisons s).2
  exact ⟨hentry, hentry, hentry⟩

/-! ### An illegal word (rules R34, R92) -/

/-- The accumulator an illegal word leaves and its answer: the decoder rejects it or gives it one of the three illegal rows. -/
theorem accAfterWord_answerToWord_of_illegalWord {w : CommandWord} (hw : illegalWord w = true) (acc : Option Word) :
    accAfterWord acc w = none ∧ answerToWord acc w = 0x200000000#36 := by
  obtain ⟨_, h⟩ | ⟨_, h⟩ | ⟨_, _, h⟩ | ⟨_, _, h⟩ := decode_of_illegalWord w hw
  case inl => exact ⟨accAfterWord_of_reject h acc, answerToWord_of_reject h acc⟩
  all_goals exact ⟨accAfterWord_of_instr h acc, answerToWord_of_instr h acc⟩

theorem accAfterWord_of_illegalWord {w : CommandWord} (hw : illegalWord w = true) (acc : Option Word) :
    accAfterWord acc w = none := (accAfterWord_answerToWord_of_illegalWord hw acc).1

theorem answerToWord_of_illegalWord {w : CommandWord} (hw : illegalWord w = true) (acc : Option Word) :
    answerToWord acc w = 0x200000000#36 := (accAfterWord_answerToWord_of_illegalWord hw acc).2

/-- The step on an illegal word, whatever the accumulator (rule R92). -/
theorem step_of_illegalWord {w : CommandWord} (hw : illegalWord w = true) (acc : Option Word) (rest : List CommandWord)
    (rs : List ResponseWord) :
    step ⟨acc, false, w :: rest, rs⟩ = .next ⟨none, false, rest, rs ++ [0x200000000#36]⟩ := by
  rw [step_word, accAfterWord_of_illegalWord hw, answerToWord_of_illegalWord hw]

/-- Settles O16. -/
theorem everyIllegalWordPoisons : Obligations.EveryIllegalWordPoisons :=
  ⟨fun s _ rest hw => step_of_illegalWord hw s.acc rest s.responses, by decide, by decide⟩

/-- Settles O18: the step on an illegal word does not look at the accumulator, and the step under `rst` looks at no word. -/
theorem errorPriority : Obligations.ErrorPriority :=
  ⟨fun s _ rest hw => ⟨_, step_of_illegalWord hw s.acc rest s.responses, rfl, rfl⟩,
    fun _ _ _ => ⟨State.reset, step_of_rst rfl, reset_acc, reset_commands, reset_responses⟩⟩

/-! ### ERR_UNSET (rule R91) -/

/-- The status of an OK response is not that of ERR_UNSET, whatever its data (rule R38). -/
theorem mkResponse_ok_ne_errUnset (d : Word) : mkResponse (statusCode .ok) d ≠ 0x100000000#36 := by
  intro h
  have hstatus := congrArg rwStatus h
  rw [rwStatus_mkResponse] at hstatus
  exact absurd hstatus (by decide)

theorem byteAnswer_eq_errUnset_iff (acc : Option Word) : byteAnswer acc = 0x100000000#36 ↔ acc = none := by
  cases acc with
  | none => exact iff_of_true rfl rfl
  | some v => exact iff_of_false (mkResponse_ok_ne_errUnset 0x00000000#32) (Option.some_ne_none v)

theorem readAnswer_eq_errUnset_iff (acc : Option Word) : readAnswer acc = 0x100000000#36 ↔ acc = none := by
  cases acc with
  | none => exact iff_of_true rfl rfl
  | some v => exact iff_of_false (mkResponse_ok_ne_errUnset v) (Option.some_ne_none v)

/-- The instructions that need a valid accumulator (rule R91); UPDS is its UPDs (rule R66). -/
def needsAcc : Instr → Bool
  | .upd _ => true
  | .read => true
  | .upds _ => true
  | _ => false

/-- ERR_UNSET is answered by the instructions that need the accumulator, where it is unset, and by no other. -/
theorem answerTo_eq_errUnset_iff (acc : Option Word) (i : Instr) :
    answerTo acc i = 0x100000000#36 ↔ acc = none ∧ needsAcc i = true := by
  cases i with
  | upd b => exact (byteAnswer_eq_errUnset_iff acc).trans (and_iff_left rfl).symm
  | upds bs => exact (byteAnswer_eq_errUnset_iff acc).trans (and_iff_left rfl).symm
  | read => exact (readAnswer_eq_errUnset_iff acc).trans (and_iff_left rfl).symm
  | stat => exact iff_of_false (mkResponse_ok_ne_errUnset _) (fun h => nomatch h.2)
  | _ => exact iff_of_false (by simp [answerTo]) (fun h => nomatch h.2)

/-- Of what a word decodes to, READ and UPD need the accumulator. -/
theorem needsAcc_iff_of_decode {w : CommandWord} {i : Instr} (hdecode : decode w = .instr i) :
    needsAcc i = true ↔ i = .read ∨ ∃ b, i = .upd b := by
  cases i with
  | upds bs => exact absurd hdecode (decode_ne_upds w bs)
  | _ => simp [needsAcc]

theorem answerToWord_eq_errUnset_iff (acc : Option Word) (w : CommandWord) :
    answerToWord acc w = 0x100000000#36
      ↔ acc = none ∧ (decode w = .instr .read ∨ ∃ b : Byte, decode w = .instr (.upd b)) := by
  cases hdecode : decode w with
  | reject why => simp [answerToWord_of_reject hdecode]
  | instr i =>
    rw [answerToWord_of_instr hdecode, answerTo_eq_errUnset_iff, needsAcc_iff_of_decode hdecode]
    simp only [Decoded.instr.injEq]

/-- A word answered ERR_UNSET leaves the accumulator unset, as it was. -/
theorem accAfterWord_of_errUnset {acc : Option Word} {w : CommandWord} (h : answerToWord acc w = 0x100000000#36) :
    accAfterWord acc w = acc := by
  obtain ⟨rfl, hread | ⟨b, hupd⟩⟩ := (answerToWord_eq_errUnset_iff acc w).1 h
  · exact accAfterWord_of_instr hread none
  · exact accAfterWord_of_instr hupd none

/-- Settles O17: the step's one response is the word's answer, so the condition is the answer's. -/
theorem unsetErrorOnlyFromUpdAndRead : Obligations.UnsetErrorOnlyFromUpdAndRead := by
  intro s w rest
  have hanswer : s.responses ++ [answerToWord s.acc w] = s.responses ++ [0x100000000#36]
      ↔ answerToWord s.acc w = 0x100000000#36 := by
    rw [List.append_right_inj, List.singleton_inj]
  refine ⟨_, step_word s.acc w rest s.responses, ?condition, fun h => ?frame⟩
  case condition => exact hanswer.trans (answerToWord_eq_errUnset_iff s.acc w)
  case frame =>
    have herr := hanswer.1 h
    rw [accAfterWord_of_errUnset herr, herr]

/-! ### Behind an error (rule R97) -/

@[simp] theorem answersToWords_read_unset : answersToWords none (encode .read) = [0x100000000#36] :=
  congrArg (fun r => [r]) (answerToWord_of_instr decode_readWord none)

theorem accAfterWord_updWord_unset (b : Byte) : accAfterWord none (mkCommand 0x2#4 (zextByte b)) = none :=
  accAfterWord_of_instr (decode_updWord b) none

theorem answerToWord_updWord_unset (b : Byte) :
    answerToWord none (mkCommand 0x2#4 (zextByte b)) = 0x100000000#36 :=
  answerToWord_of_instr (decode_updWord b) none

theorem encode_upds_cons (b : Byte) (bs : List Byte) :
    encode (.upds (b :: bs)) = mkCommand 0x2#4 (zextByte b) :: encode (.upds bs) := rfl

/-- The bytes behind an error are lost, and the accumulator stays unset. -/
@[simp] theorem accAfterWords_upds_unset (bs : List Byte) : accAfterWords none (encode (.upds bs)) = none := by
  induction bs with
  | nil => rfl
  | cons b bs ih => rw [encode_upds_cons, accAfterWords_cons, accAfterWord_updWord_unset, ih]

/-- Every one of them raises its own error. -/
@[simp] theorem answersToWords_upds_unset (bs : List Byte) :
    answersToWords none (encode (.upds bs)) = List.replicate bs.length 0x100000000#36 := by
  induction bs with
  | nil => rfl
  | cons b bs ih =>
    rw [encode_upds_cons, answersToWords_cons, answerToWord_updWord_unset, accAfterWord_updWord_unset, ih,
      List.length_cons, List.replicate_succ]

/-- What follows the illegal word in the poisoned stream: the bytes, READ, and the SEED that recovers. -/
def poisonedTail (bs : List Byte) (v : Word) : List CommandWord :=
  encode (.upds bs) ++ encode .read ++ encode (.seed v)

theorem poisonedTail_length (bs : List Byte) (v : Word) : (poisonedTail bs v).length = bs.length + 2 := by
  simp [poisonedTail, encode]

theorem accAfterWords_poisonedTail (bs : List Byte) (v : Word) :
    accAfterWords none (poisonedTail bs v) = some v := by
  rw [poisonedTail, accAfterWords_append, accAfterWords_seed]

theorem answersToWords_poisonedTail (bs : List Byte) (v : Word) :
    answersToWords none (poisonedTail bs v) = List.replicate (bs.length + 1) 0x100000000#36 ++ [0x000000000#36] := by
  rw [List.replicate_succ']
  simp only [poisonedTail, answersToWords_append, accAfterWords_upds_unset, answersToWords_upds_unset,
    answersToWords_read_unset, answersToWords_seed]

/-- Settles O26: one step on the illegal word, then the run over the words behind it, from an unset accumulator. -/
theorem poisonedStreamYieldsNoChecksum : Obligations.PoisonedStreamYieldsNoChecksum := by
  intro s bad bs v rest hbad
  have htail := runSteps_words (poisonedTail bs v) rest none (s.responses ++ [0x200000000#36])
  rw [poisonedTail_length, accAfterWords_poisonedTail, answersToWords_poisonedTail] at htail
  calc runSteps (bs.length + 3) ⟨s.acc, false, bad :: (poisonedTail bs v ++ rest), s.responses⟩
      = runSteps (bs.length + 2) ⟨none, false, poisonedTail bs v ++ rest, s.responses ++ [0x200000000#36]⟩ :=
        runSteps_succ _ (step_of_illegalWord hbad s.acc _ s.responses)
    _ = _ := htail
    _ = _ := by simp only [List.append_assoc]

end Sys2Proof.Machine
end

section
/-! SUPPORT. Reset and the idle block (70_reset_and_hazards.md): what the host's channels do under `rst`, that the step under
`rst` leaves the reset state, with `rst` released, and that a block with no word waiting stays as it is. -/

namespace Sys2Proof.Machine

/-! ### The channels under reset (rule R105) -/

/-- No response is delivered under reset, whatever is waiting (rule R105). -/
theorem deliverResponse_of_asserted {s : State} (h : s.rst = true) : s.deliverResponse = none := by
  simp [State.deliverResponse, h]

/-! ### The reset state (rules R106, R107) -/

/-- Settles O20: the status word is that of any unset accumulator. -/
theorem resetLeavesUnset : Obligations.ResetLeavesUnset :=
  ⟨reset_acc, statusWord_of_none reset_acc⟩

/-- The step on an asserted `rst` forgets the state before it, both channels included (rule R107). -/
theorem step_assertReset (s : State) : step s.assertReset = .next State.reset := step_of_rst (assertReset_rst s)

/-- The reset state has `rst` released already (log entry 3). -/
theorem reset_release : { State.reset with rst := false } = State.reset := rfl

/-- Settles O21: under `rst` the channels do nothing, and the next state is the reset state, so the first word accepted after
release finds that state. -/
theorem resetDiscardsEverything : Obligations.ResetDiscardsEverything := by
  refine ⟨fun s w => ?_, reset_commands, reset_responses⟩
  have hrst : s.assertReset.rst = true := assertReset_rst s
  have hfirst : step (State.acceptCommand { State.reset with rst := false } w) = step (State.reset.acceptCommand w) := by
    rw [reset_release]
  exact ⟨acceptCommand_of_asserted hrst w, deliverResponse_of_asserted hrst,
    State.reset, step_assertReset s, reset_acc, reset_commands, reset_responses, hfirst⟩

/-! ### The idle block (rule R116) -/

/-- Settles O15: with `rst` released and nothing to fetch, the step is the idle one. -/
theorem idleStepChangesNothing : Obligations.IdleStepChangesNothing :=
  fun _ => step_of_idle rfl rfl

end Sys2Proof.Machine
end
